-- ==== Sys2Proof/Word.lean ====
section
/-! DEFINITION. The word types of the CTO: 32-bit data (spec/00_scope.md R11), 16-bit micro-words (R91), bytes. -/

namespace Sys2Proof

/-- A 32-bit data word: every data register and every port access (00 R11, 20 R64). -/
abbrev Word := BitVec 32

/-- A 16-bit micro-word (30 R91). -/
abbrev MicroWord := BitVec 16

/-- A byte lane of a word, little-endian where lanes are needed (20 R63). -/
abbrev Byte := BitVec 8

/-- A byte address of the external register space (20 R60). -/
abbrev Addr := BitVec 32

end Sys2Proof
end

