-- ==== Sys2Proof/Syntax.lean ====
section
/-! DEFINITION. The instructions of the CTO: one constructor per row of spec/opcode_table.json (spec/30_encoding.md R90 to R99). -/

namespace Sys2Proof

/-- The seven clock sources, in the source's order (30 R92, 41 R130). -/
inductive ClockSource where
  | hsi | hse | pll | pllsai | plli2s | lse | lsi
deriving DecidableEq, Repr, Inhabited

/-- The fourteen orchestrator states, in the source's order (10 R21, 47 R182). -/
inductive OState where
  | idle | hsiEnabled | hsiSelected | hseEnabled | hseReady | voltageConfigured | prescalersConfigured
  | pllConfigured | pllEnabled | pllReady | flashConfigured | pllSelected | frequenciesPublished | hsiDisabled
deriving DecidableEq, Repr, Inhabited

/-- The `mark` operand: the state entered at completion, or none (30 R94). `enter .idle` is refused by WellFormed. -/
inductive Mark where
  | enter (st : OState)
  | keep
deriving DecidableEq, Repr, Inhabited

/-- One constructor per row of the opcode table. -/
inductive Instr where
  -- format U, the micro-operations (30 R96)
  | oscEnable (src : ClockSource) (mark : Mark)
  | oscDisable (src : ClockSource) (mark : Mark)
  | oscWaitReady (src : ClockSource) (mark : Mark)
  | oscIsReady (src : ClockSource) (mark : Mark)
  | swSelect (src : ClockSource) (mark : Mark)
  | swWait (src : ClockSource) (mark : Mark)
  | profLookup (mark : Mark)
  | vosSetScale (mark : Mark)
  | preSetAhb (mark : Mark)
  | preSetApb1 (mark : Mark)
  | preSetApb2 (mark : Mark)
  | pllConfigure (mark : Mark)
  | flashSetWs (ic dc : Bool) (mark : Mark)
  | freqPublish (mark : Mark)
  | uEnd (mark : Mark)
  -- format H, words written to CMD (30 R97); `configure` carries the reserved bits that R202 checks
  | nop
  | configure (crystal target : BitVec 8) (rsvLo : BitVec 4) (rsvHi : BitVec 8)
  | cmdReserved2
  | cmdReserved3
  | cmdReserved4
  | cmdReserved5
  | cmdReserved6
  | cmdReserved7
  | cmdReserved8
  | cmdReserved9
  | cmdReserved10
  | cmdReserved11
  | cmdReserved12
  | cmdReserved13
  | cmdReserved14
  | cmdReserved15
  -- format HQ, host register accesses (30 R98)
  | rdStatus
  | rdArgs
  | rdPollLimit
  | wrPollLimit (w : Word)
  | qAhbHz
  | qApb1Hz
  | qApb2Hz
  | qAhbMs
  | qAhbUs
  | qApb1Ms
  | qApb1Us
  | qApb2Ms
  | qApb2Us
  -- format BUS, the master-port primitives (30 R99, 40 R120 to R125); never decoded
  | rfRead (a : Addr)
  | rfWrite (a : Addr) (v : Word)
  | rfSetBits (a : Addr) (k : Word)
  | rfClearBits (a : Addr) (k : Word)
  | rfTest (a : Addr) (k : Word)
  | rfMaskedUpdate (a : Addr) (m : Word) (s : Nat) (v : Nat)
deriving DecidableEq, Repr

/-- The four formats (30 R90). -/
inductive Format where
  | u | h | hq | bus
deriving DecidableEq, Repr

/-- The format of each instruction (30 R90). -/
def Instr.format : Instr → Format
  | .oscEnable .. | .oscDisable .. | .oscWaitReady .. | .oscIsReady .. | .swSelect .. | .swWait ..
  | .profLookup _ | .vosSetScale _ | .preSetAhb _ | .preSetApb1 _ | .preSetApb2 _ | .pllConfigure _
  | .flashSetWs .. | .freqPublish _ | .uEnd _ => .u
  | .nop | .configure .. | .cmdReserved2 | .cmdReserved3 | .cmdReserved4 | .cmdReserved5 | .cmdReserved6
  | .cmdReserved7 | .cmdReserved8 | .cmdReserved9 | .cmdReserved10 | .cmdReserved11 | .cmdReserved12
  | .cmdReserved13 | .cmdReserved14 | .cmdReserved15 => .h
  | .rdStatus | .rdArgs | .rdPollLimit | .wrPollLimit _ | .qAhbHz | .qApb1Hz | .qApb2Hz | .qAhbMs | .qAhbUs
  | .qApb1Ms | .qApb1Us | .qApb2Ms | .qApb2Us => .hq
  | .rfRead _ | .rfWrite .. | .rfSetBits .. | .rfClearBits .. | .rfTest .. | .rfMaskedUpdate .. => .bus

end Sys2Proof
end

