-- ==== Sys2Proof/Config.lean ====
section
/-! DEFINITION. The open parameters of the spec (spec/00_scope.md R8 to R10, spec/92_eei_decisions.md O1 to O4) as plain
data, the constants the source fixes (R7), and the free values: opaque constants that nothing can evaluate. -/

namespace Sys2Proof

/-- One value per clock source. -/
structure PerSource (α : Type) where
  hsi : α
  hse : α
  pll : α
  pllsai : α
  plli2s : α
  lse : α
  lsi : α
deriving DecidableEq, Repr

/-- A single bit of an external register: `(addr, bit)` of 00 R9. -/
structure BitLoc where
  addr : Addr
  bit : Nat
deriving DecidableEq, Repr

/-- A field of a 32-bit register: `(shift, width)` of 00 R9 and R12. -/
structure Field where
  shift : Nat
  width : Nat
deriving DecidableEq, Repr

/-- The register map `RegMap` (00 R9). -/
structure RegMap where
  en : PerSource BitLoc
  rdy : PerSource BitLoc
  pllcfgAddr : Addr
  pllM : Field
  pllN : Field
  pllP : Field
  pllQ : Field
  pllR : Field
  pllSrc : Field
  pllsrcHse : Word
  cfgAddr : Addr
  sw : Field
  sws : Field
  hpre : Field
  ppre1 : Field
  ppre2 : Field
  pwrAddr : Addr
  vos : Field
  vosHigh : Word
  vosLow : Word
  flashAddr : Addr
  latency : Field
  icen : Nat
  dcen : Nat
  prften : Nat
deriving DecidableEq, Repr

/-- The code functions (00 R10): `SwCode` per source; `EncP` as its graph; `HpreDiv` and `PpreDiv` listed by code from 0 on. -/
structure Codes where
  sw : PerSource (Option Word)
  encP : List (Nat × Word)
  hpreDiv : List Nat
  ppreDiv : List Nat
deriving DecidableEq, Repr

/-- The record `ClockScaleProfile` with the widths of the profile latch (10 R25). -/
structure ClockScaleProfile where
  pllm : BitVec 16
  plln : BitVec 16
  pllp : BitVec 16
  pllq : BitVec 16
  pllr : BitVec 16
  hpre : BitVec 8
  ppre1 : BitVec 8
  ppre2 : BitVec 8
  powerSave : Bool
  flashWaitStates : BitVec 16
deriving DecidableEq, Repr, Inhabited

/-- All parameters a model takes as arguments (00 R8 to R10; 92 O1 to O4). -/
structure Params where
  regs : RegMap
  codes : Codes
  ncrystal : Nat
  ntarget : Nat
  crystalHz : List Nat
  profiles : List (List ClockScaleProfile)
  hostBase : Nat
deriving DecidableEq, Repr

namespace Config

/-! Constants fixed by the source (00 R7). -/

def pllInMin : Nat := 1000000
def pllInMax : Nat := 2000000
def vcoMin : Nat := 100000000
def vcoMax : Nat := 432000000
def pllrMin : Nat := 2
def resetHz : Nat := 8000000

/-! Free values (spec/93_implementation_defined.md U4, U5, and reads that only unreachable states make). None has a body. -/

/-- `Ext0`, the launch value of each byte of the external register space (20 R68, U5). Log entry 1. -/
opaque ext0 : Nat → Byte

/-- The environment's answer to the n-th read, of which only the status bits are used (20 R69, U4). Log entry 2. -/
opaque statusDraw : Nat → Word

/-- What `tmp` reads as while it holds no value (10 R23: need never be read then). Log entry 7. -/
opaque emptyTmp : Word

/-- What the latch `crystal` reads as while it holds no value (10 R24). Log entry 7. -/
opaque emptyCrystal : BitVec 8

/-- What the latch `target` reads as while it holds no value (10 R24). Log entry 7. -/
opaque emptyTarget : BitVec 8

/-- `ProfileTable` outside the closed enumerations, structurally impossible in a run (10 R32). Log entry 8. -/
opaque offTableProfile : BitVec 8 → BitVec 8 → ClockScaleProfile

/-- `CrystalHz` outside the closed enumeration (10 R32). Log entry 8. -/
opaque offTableHz : BitVec 8 → Nat

/-- `HpreDiv` less 1 at a code the parameter does not list (00 R10: the factor is at least 1). Log entry 9. -/
opaque hpreBeyond : BitVec 8 → Nat

/-- `PpreDiv` less 1 at a code the parameter does not list (00 R10). Log entry 9. -/
opaque ppreBeyond : BitVec 8 → Nat

/-- `EncP` of a divider that has no code, asked for only if the latch bypassed PROF_LOOKUP (42 R142). Log entry 10. -/
opaque unencodableP : BitVec 16 → Word

/-- A division by zero, which R185 and R10 exclude (47 R186). Log entry 11. -/
opaque divByZero : Nat → Nat

end Config

end Sys2Proof
end

