-- ==== Sys2Proof/WellFormed.lean ====
section
/-! DEFINITION. Well-formed instructions: the operands each encoding admits (spec/30_encoding.md R94, R99, R101). -/

namespace Sys2Proof

/-- The value a `PerSource` holds for a source. -/
def PerSource.get {α : Type} (p : PerSource α) : ClockSource → α
  | .hsi => p.hsi
  | .hse => p.hse
  | .pll => p.pll
  | .pllsai => p.pllsai
  | .plli2s => p.plli2s
  | .lse => p.lse
  | .lsi => p.lsi

/-- A mark enters one of the states 1 to 13 or keeps the state: 0 (Idle) is illegal (30 R94). -/
def Mark.ok : Mark → Bool
  | .enter st => st != .idle
  | .keep => true

/-- An unshifted field mask: one less than a power of two (40 R127). -/
def fieldMaskOk (m : Word) : Bool := (List.range 33).any fun w => m.toNat + 1 == 2 ^ w

/-- A word-aligned external address (20 R61, R65). -/
def addrOk (a : Addr) : Bool := a.toNat % 4 == 0

/-- The checks an instruction passes to be an admissible row of the table; `sw` is the parameter `SwCode`,
on which the legality of opcodes 5 and 6 depends (30 R101, R107). -/
def WellFormed (sw : PerSource (Option Word)) : Instr → Bool
  | .oscEnable _ m => m.ok
  | .oscDisable _ m => m.ok
  | .oscWaitReady _ m => m.ok
  | .oscIsReady _ m => m.ok
  | .swSelect src m => (sw.get src).isSome && m.ok
  | .swWait src m => (sw.get src).isSome && m.ok
  | .profLookup m => m.ok
  | .vosSetScale m => m.ok
  | .preSetAhb m => m.ok
  | .preSetApb1 m => m.ok
  | .preSetApb2 m => m.ok
  | .pllConfigure m => m.ok
  | .flashSetWs _ _ m => m.ok
  | .freqPublish m => m.ok
  | .uEnd m => m.ok
  | .nop => true
  | .configure .. => true
  | .cmdReserved2 => true
  | .cmdReserved3 => true
  | .cmdReserved4 => true
  | .cmdReserved5 => true
  | .cmdReserved6 => true
  | .cmdReserved7 => true
  | .cmdReserved8 => true
  | .cmdReserved9 => true
  | .cmdReserved10 => true
  | .cmdReserved11 => true
  | .cmdReserved12 => true
  | .cmdReserved13 => true
  | .cmdReserved14 => true
  | .cmdReserved15 => true
  | .rdStatus => true
  | .rdArgs => true
  | .rdPollLimit => true
  | .wrPollLimit _ => true
  | .qAhbHz => true
  | .qApb1Hz => true
  | .qApb2Hz => true
  | .qAhbMs => true
  | .qAhbUs => true
  | .qApb1Ms => true
  | .qApb1Us => true
  | .qApb2Ms => true
  | .qApb2Us => true
  | .rfRead a => addrOk a
  | .rfWrite a _ => addrOk a
  | .rfSetBits a _ => addrOk a
  | .rfClearBits a _ => addrOk a
  | .rfTest a _ => addrOk a
  | .rfMaskedUpdate a m s _ => addrOk a && fieldMaskOk m && (m.toNat <<< s < 2 ^ 32)

end Sys2Proof
end

