-- ==== Sys2Proof/Machine/Platform.lean ====
section
/-! DEFINITION. The platform of a run: field masks and code lookups (spec/00_scope.md R10, R12), the constraints on a
configuration (R8, R9), the default map P0 and test configuration T0 (spec/93_implementation_defined.md part 3,
spec/95_test_vectors.md part 2), and the micro-ROM of spec/47_orchestrator.md R183. -/

namespace Sys2Proof

/-- The word with only bit `b` set. -/
def bitMask (b : Nat) : Word := 1#32 <<< b

/-- `F.mask = 2^width - 1`, unshifted (00 R12). -/
def Field.mask (f : Field) : Word := BitVec.ofNat 32 (2 ^ f.width - 1)

/-- `F.smask = F.mask << F.shift` (00 R12). -/
def Field.smask (f : Field) : Word := f.mask <<< f.shift

/-- A value truncated to a field and moved into place. -/
def Field.place (f : Field) (v : Word) : Word := (v &&& f.mask) <<< f.shift

/-- The field's value in a word, unshifted. -/
def Field.get (f : Field) (w : Word) : Word := (w >>> f.shift) &&& f.mask

/-- The bit's mask within its word. -/
def BitLoc.smask (l : BitLoc) : Word := bitMask l.bit

/-- The seven values of a `PerSource`, in the source's order. -/
def PerSource.toList {α : Type} (p : PerSource α) : List α :=
  [p.hsi, p.hse, p.pll, p.pllsai, p.plli2s, p.lse, p.lsi]

namespace Machine

/-! Which bits and words a register map names. -/

/-- Status bits of a register map, each with its word: the seven ready bits and `CFG.SWS` (20 R68). -/
def statusBits (r : RegMap) : List (Addr × Word) :=
  r.rdy.toList.map (fun l => (l.addr, l.smask)) ++ [(r.cfgAddr, r.sws.smask)]

/-- The storage fields the spec names, each with its word (10 R47). DESIGN CHOICE (log entry 26): of the PLL configuration
word these are the six fields 00 R9 names, not the whole word that PLL_CONFIGURE writes. -/
def storageFields (r : RegMap) : List (Addr × Word) :=
  r.en.toList.map (fun l => (l.addr, l.smask)) ++
  [(r.pllcfgAddr, r.pllM.smask), (r.pllcfgAddr, r.pllN.smask), (r.pllcfgAddr, r.pllP.smask),
   (r.pllcfgAddr, r.pllQ.smask), (r.pllcfgAddr, r.pllR.smask), (r.pllcfgAddr, r.pllSrc.smask),
   (r.cfgAddr, r.sw.smask), (r.cfgAddr, r.hpre.smask), (r.cfgAddr, r.ppre1.smask), (r.cfgAddr, r.ppre2.smask),
   (r.pwrAddr, r.vos.smask),
   (r.flashAddr, r.latency.smask), (r.flashAddr, bitMask r.icen), (r.flashAddr, bitMask r.dcen),
   (r.flashAddr, bitMask r.prften)]

/-- The addresses a register map names (20 R60). -/
def namedAddrs (r : RegMap) : List Addr :=
  r.en.toList.map (·.addr) ++ r.rdy.toList.map (·.addr) ++ [r.pllcfgAddr, r.cfgAddr, r.pwrAddr, r.flashAddr]

/-- An address the register map names (20 R66). -/
def named (r : RegMap) (a : Addr) : Bool := (namedAddrs r).contains a

/-- The status bits of the word at `a` (20 R68). -/
def statusMask (r : RegMap) (a : Addr) : Word :=
  (statusBits r).foldr (fun p m => if p.1 = a then p.2 ||| m else m) 0

/-- Two fields of one register do not overlap. -/
def apart (x y : Addr × Word) : Bool := x.1 != y.1 || (x.2 &&& y.2) == 0

/-- Every two entries of a list of fields are apart. -/
def allApart : List (Addr × Word) → Bool
  | [] => true
  | x :: xs => xs.all (apart x) && allApart xs

def Field.fits (f : Field) : Bool := f.shift + f.width ≤ 32

/-- The constraints of 00 R9 (as log entry 26 reads them): aligned addresses, fields inside 31..0, no overlap, no status bit in a written field. -/
def RegMap.wf (r : RegMap) : Bool :=
  (namedAddrs r).all addrOk &&
  (r.en.toList ++ r.rdy.toList).all (fun l => l.bit < 32) &&
  [r.icen, r.dcen, r.prften].all (· < 32) &&
  [r.pllM, r.pllN, r.pllP, r.pllQ, r.pllR, r.pllSrc, r.sw, r.sws, r.hpre, r.ppre1, r.ppre2, r.vos, r.latency].all
    Field.fits &&
  allApart (storageFields r ++ statusBits r)

/-- The constraints of 00 R8 and R10 on the tables: sizes 1 to 256, one crystal frequency per crystal, one profile per
pair, division factors at least 1. -/
def tablesWf (p : Params) : Bool :=
  decide (1 ≤ p.ncrystal ∧ p.ncrystal ≤ 256 ∧ 1 ≤ p.ntarget ∧ p.ntarget ≤ 256) &&
  p.crystalHz.length == p.ncrystal &&
  p.profiles.length == p.ncrystal &&
  p.profiles.all (fun row => row.length == p.ntarget) &&
  p.codes.hpreDiv.all (1 ≤ ·) &&
  p.codes.ppreDiv.all (1 ≤ ·)

/-- A configuration the model admits. A map that breaks R9 is refused by the spec's own words (00 R9, 93 U17); refusing
tables that break R8 or R10 is the model's (DESIGN CHOICE, log entry 28). -/
def paramsWf (p : Params) : Bool := RegMap.wf p.regs && tablesWf p

/-! The code functions and read-only stores as total functions. -/

/-- `EncP` (00 R10): the field code of a P divider, none where it has no code. -/
def encP (c : Codes) (p : BitVec 16) : Option Word := c.encP.lookup p.toNat

/-- `HpreDiv` (00 R10), at least 1 where the configuration is admitted; a code the list does not reach has a free factor. -/
def hpreDiv (c : Codes) (code : BitVec 8) : Nat := c.hpreDiv.getD code.toNat (Config.hpreBeyond code + 1)

/-- `PpreDiv` (00 R10). -/
def ppreDiv (c : Codes) (code : BitVec 8) : Nat := c.ppreDiv.getD code.toNat (Config.ppreBeyond code + 1)

/-- `ProfileTable` (10 R32), total on the closed enumerations. -/
def profileAt (p : Params) (crystal target : BitVec 8) : ClockScaleProfile :=
  (p.profiles.getD crystal.toNat []).getD target.toNat (Config.offTableProfile crystal target)

/-- `CrystalHz` (10 R32). -/
def crystalHzAt (p : Params) (crystal : BitVec 8) : Nat := p.crystalHz.getD crystal.toNat (Config.offTableHz crystal)

/-! The default map P0 and the test configuration T0 (93 part 3, 95 part 2). No rule depends on them. -/

/-- The register map of P0. -/
def p0RegMap : RegMap where
  en := ⟨⟨0x40023800, 0⟩, ⟨0x40023800, 16⟩, ⟨0x40023800, 24⟩, ⟨0x40023800, 28⟩, ⟨0x40023800, 26⟩,
    ⟨0x40023870, 0⟩, ⟨0x40023874, 0⟩⟩
  rdy := ⟨⟨0x40023800, 1⟩, ⟨0x40023800, 17⟩, ⟨0x40023800, 25⟩, ⟨0x40023800, 29⟩, ⟨0x40023800, 27⟩,
    ⟨0x40023870, 1⟩, ⟨0x40023874, 1⟩⟩
  pllcfgAddr := 0x40023804
  pllM := ⟨0, 6⟩
  pllN := ⟨6, 9⟩
  pllP := ⟨16, 2⟩
  pllQ := ⟨24, 4⟩
  pllR := ⟨28, 3⟩
  pllSrc := ⟨22, 1⟩
  pllsrcHse := 1
  cfgAddr := 0x40023808
  sw := ⟨0, 2⟩
  sws := ⟨2, 2⟩
  hpre := ⟨4, 4⟩
  ppre1 := ⟨10, 3⟩
  ppre2 := ⟨13, 3⟩
  pwrAddr := 0x40007000
  vos := ⟨14, 2⟩
  vosHigh := 3
  vosLow := 2
  flashAddr := 0x40023C00
  latency := ⟨0, 4⟩
  icen := 9
  dcen := 10
  prften := 8

/-- The code functions of P0 (92 D36). -/
def p0Codes : Codes where
  sw := ⟨some 0, some 1, some 2, none, none, none, none⟩
  encP := [(2, 0), (4, 1), (6, 2), (8, 3)]
  hpreDiv := [1, 1, 1, 1, 1, 1, 1, 1, 2, 4, 8, 16, 64, 128, 256, 512]
  ppreDiv := [1, 1, 1, 1, 2, 4, 8, 16]

/-- The test configuration T0: the parameters in place at `State.reset` (log entry 5). -/
def t0 : Params where
  regs := p0RegMap
  codes := p0Codes
  ncrystal := 2
  ntarget := 2
  crystalHz := [8000000, 25000000]
  profiles :=
    [[⟨8, 96, 2, 2, 0, 0, 5, 4, true, 3⟩, ⟨8, 336, 2, 7, 0, 0, 5, 4, false, 5⟩],
     [⟨25, 96, 2, 2, 3, 0, 5, 4, true, 3⟩, ⟨25, 336, 2, 7, 0, 0, 5, 4, false, 5⟩]]
  hostBase := 0

/-- The contents of the micro-ROM (47 R183). -/
def rom : Vector MicroWord 32 :=
  #v[0x1001, 0x300F, 0x5002, 0x1203, 0x3204, 0x700F, 0x8005, 0x900F, 0x908F, 0x9106, 0xA007, 0x1408, 0x3409, 0xB18A,
    0x540F, 0x640B, 0xC00C, 0x200D, 0xD00F, 0, 0, 0, 0, 0, 0, 0, 0, 0, 0, 0, 0, 0]

end Machine

end Sys2Proof
end

