-- ==== Sys2Proof/Decode.lean ====
section
/-! DEFINITION. The decoders of spec/30_encoding.md (format U: R91 to R96, R101, R107; format H: R97, R102; format HQ: R98),
total and rejecting by name, then the encoder. -/

namespace Sys2Proof

/-- Why a word or an access is no instruction. The U reasons are the clauses of 30 R101. -/
inductive Reject where
  | opcode            -- op is 0, 14 or 15
  | reservedBits      -- rsv is not 0
  | mark              -- mark is 0 or 14
  | noSuchSource      -- src is 7 in opcodes 1 to 6
  | notSelectable     -- opcode 5 or 6 and SwCode(src) is none
  | srcNotZero        -- src is not 0 in opcodes 7 to 13
  | selNotZero        -- sel is not 0 outside opcodes 9 and 11
  | noSuchBus         -- sel is 3 in opcode 9
  | readsZero         -- a host read of CMD or of a reserved offset: returns 0 (48 R216), no instruction
  | ignoredWrite      -- a host write of a read-only register or a reserved offset (48 R216), no instruction
  | busPattern        -- a format BUS row is produced by the CTO, never decoded (30 R99)
deriving DecidableEq, Repr

/-- What a decoder of the CTO is given (30 R90). A host register is named by address bits 5:2 (10 R46). -/
inductive Encoding where
  | micro (w : MicroWord)
  | command (w : Word)
  | hostRead (reg : BitVec 4)
  | hostWrite (reg : BitVec 4) (w : Word)
  | bus (we : List Bool)
deriving DecidableEq, Repr

/-! Codes of the closed enumerations. -/

/-- The 3-bit code of a clock source (30 R92). -/
def ClockSource.code : ClockSource → BitVec 3
  | .hsi => 0
  | .hse => 1
  | .pll => 2
  | .pllsai => 3
  | .plli2s => 4
  | .lse => 5
  | .lsi => 6

/-- The source a 3-bit code names; code 7 names none (30 R92). -/
def ClockSource.ofCode (c : BitVec 3) : Option ClockSource :=
  match c.toNat with
  | 0 => some .hsi
  | 1 => some .hse
  | 2 => some .pll
  | 3 => some .pllsai
  | 4 => some .plli2s
  | 5 => some .lse
  | 6 => some .lsi
  | _ => none

/-- The 4-bit code of an orchestrator state (10 R21). -/
def OState.code : OState → BitVec 4
  | .idle => 0
  | .hsiEnabled => 1
  | .hsiSelected => 2
  | .hseEnabled => 3
  | .hseReady => 4
  | .voltageConfigured => 5
  | .prescalersConfigured => 6
  | .pllConfigured => 7
  | .pllEnabled => 8
  | .pllReady => 9
  | .flashConfigured => 10
  | .pllSelected => 11
  | .frequenciesPublished => 12
  | .hsiDisabled => 13

/-- The 4-bit mark field (30 R94). -/
def Mark.code : Mark → BitVec 4
  | .enter st => st.code
  | .keep => 15

/-- The mark a 4-bit field holds: 0 and 14 are illegal (30 R94). -/
def Mark.ofCode (c : BitVec 4) : Option Mark :=
  match c.toNat with
  | 1 => some (.enter .hsiEnabled)
  | 2 => some (.enter .hsiSelected)
  | 3 => some (.enter .hseEnabled)
  | 4 => some (.enter .hseReady)
  | 5 => some (.enter .voltageConfigured)
  | 6 => some (.enter .prescalersConfigured)
  | 7 => some (.enter .pllConfigured)
  | 8 => some (.enter .pllEnabled)
  | 9 => some (.enter .pllReady)
  | 10 => some (.enter .flashConfigured)
  | 11 => some (.enter .pllSelected)
  | 12 => some (.enter .frequenciesPublished)
  | 13 => some (.enter .hsiDisabled)
  | 15 => some .keep
  | _ => none

/-! The fields of a micro-word (30 R91). -/

def uOp (w : MicroWord) : BitVec 4 := w.extractLsb' 12 4
def uSrc (w : MicroWord) : BitVec 3 := w.extractLsb' 9 3
def uSel (w : MicroWord) : BitVec 2 := w.extractLsb' 7 2
def uRsv (w : MicroWord) : BitVec 3 := w.extractLsb' 4 3
def uMark (w : MicroWord) : BitVec 4 := w.extractLsb' 0 4

/-- An opcode with a `src` operand: `src` names a source and `sel` is 0 (30 R101). -/
def decodeWithSource (w : MicroWord) (k : ClockSource → Except Reject Instr) : Except Reject Instr :=
  if uSel w ≠ 0 then .error .selNotZero
  else match ClockSource.ofCode (uSrc w) with
    | none => .error .noSuchSource
    | some src => k src

/-- An opcode whose source must have a SYSCLK code (30 R101, 46 R170). -/
def decodeSelectable (sw : PerSource (Option Word)) (i : ClockSource → Instr) (src : ClockSource) : Except Reject Instr :=
  if (sw.get src).isSome then .ok (i src) else .error .notSelectable

/-- An opcode with no `src` operand (30 R101). -/
def decodeNoSource (w : MicroWord) (k : Except Reject Instr) : Except Reject Instr :=
  if uSrc w ≠ 0 then .error .srcNotZero else k

/-- An opcode with neither `src` nor `sel` (30 R101). -/
def decodePlain (w : MicroWord) (i : Instr) : Except Reject Instr :=
  decodeNoSource w (if uSel w ≠ 0 then .error .selNotZero else .ok i)

/-- The opcode's own fields, once mark and reserved bits are legal (30 R96). -/
def decodeOp (sw : PerSource (Option Word)) (w : MicroWord) (m : Mark) : Except Reject Instr :=
  match (uOp w).toNat with
  | 1 => decodeWithSource w fun src => .ok (.oscEnable src m)
  | 2 => decodeWithSource w fun src => .ok (.oscDisable src m)
  | 3 => decodeWithSource w fun src => .ok (.oscWaitReady src m)
  | 4 => decodeWithSource w fun src => .ok (.oscIsReady src m)
  | 5 => decodeWithSource w (decodeSelectable sw fun src => .swSelect src m)
  | 6 => decodeWithSource w (decodeSelectable sw fun src => .swWait src m)
  | 7 => decodePlain w (.profLookup m)
  | 8 => decodePlain w (.vosSetScale m)
  | 9 => decodeNoSource w (match (uSel w).toNat with
      | 0 => .ok (.preSetAhb m)
      | 1 => .ok (.preSetApb1 m)
      | 2 => .ok (.preSetApb2 m)
      | _ => .error .noSuchBus)
  | 10 => decodePlain w (.pllConfigure m)
  | 11 => decodeNoSource w (.ok (.flashSetWs ((uSel w).getLsbD 0) ((uSel w).getLsbD 1) m))
  | 12 => decodePlain w (.freqPublish m)
  | 13 => decodePlain w (.uEnd m)
  | _ => .error .opcode

/-- The decoder of format U, total on 16-bit words; it takes `SwCode` as an argument (30 R107). -/
def decodeU (sw : PerSource (Option Word)) (w : MicroWord) : Except Reject Instr :=
  if uRsv w ≠ 0 then .error .reservedBits
  else match Mark.ofCode (uMark w) with
    | none => .error .mark
    | some m => decodeOp sw w m

/-- The decoder of format H, total on 32-bit words (30 R97). The reserved fields of CONFIGURE go with it, for R202 to check. -/
def decodeH (w : Word) : Instr :=
  match (w.extractLsb' 0 4).toNat with
  | 0 => .nop
  | 1 => .configure (w.extractLsb' 8 8) (w.extractLsb' 16 8) (w.extractLsb' 4 4) (w.extractLsb' 24 8)
  | 2 => .cmdReserved2
  | 3 => .cmdReserved3
  | 4 => .cmdReserved4
  | 5 => .cmdReserved5
  | 6 => .cmdReserved6
  | 7 => .cmdReserved7
  | 8 => .cmdReserved8
  | 9 => .cmdReserved9
  | 10 => .cmdReserved10
  | 11 => .cmdReserved11
  | 12 => .cmdReserved12
  | 13 => .cmdReserved13
  | 14 => .cmdReserved14
  | _ => .cmdReserved15

/-- The host port's decoder of a read, by address bits 5:2 (30 R98, 10 R40). -/
def decodeHostRead (reg : BitVec 4) : Except Reject Instr :=
  match reg.toNat with
  | 1 => .ok .rdStatus
  | 2 => .ok .rdArgs
  | 3 => .ok .rdPollLimit
  | 4 => .ok .qAhbHz
  | 5 => .ok .qApb1Hz
  | 6 => .ok .qApb2Hz
  | 7 => .ok .qAhbMs
  | 8 => .ok .qAhbUs
  | 9 => .ok .qApb1Ms
  | 10 => .ok .qApb1Us
  | 11 => .ok .qApb2Ms
  | 12 => .ok .qApb2Us
  | _ => .error .readsZero

/-- The host port's decoder of a write (10 R40 to R46, 48 R216). -/
def decodeHostWrite (reg : BitVec 4) (w : Word) : Except Reject Instr :=
  match reg.toNat with
  | 0 => .ok (decodeH w)
  | 3 => .ok (.wrPollLimit w)
  | _ => .error .ignoredWrite

/-- The decoder of all formats. -/
def decode (sw : PerSource (Option Word)) : Encoding → Except Reject Instr
  | .micro w => decodeU sw w
  | .command w => .ok (decodeH w)
  | .hostRead reg => decodeHostRead reg
  | .hostWrite reg w => decodeHostWrite reg w
  | .bus _ => .error .busPattern

/-- A micro-word from its fields (30 R91). -/
def microWord (op : BitVec 4) (src : BitVec 3) (sel : BitVec 2) (m : Mark) : MicroWord :=
  op ++ src ++ sel ++ 0#3 ++ m.code

/-- A command word from its fields (30 R97). -/
def commandWord (opc : BitVec 4) (crystal target : BitVec 8) (rsvLo : BitVec 4) (rsvHi : BitVec 8) : Word :=
  rsvHi ++ target ++ crystal ++ rsvLo ++ opc

/-- The encoder, from the tables of 30 R96 to R99. -/
def encode : Instr → Encoding
  | .oscEnable src m => .micro (microWord 1 src.code 0 m)
  | .oscDisable src m => .micro (microWord 2 src.code 0 m)
  | .oscWaitReady src m => .micro (microWord 3 src.code 0 m)
  | .oscIsReady src m => .micro (microWord 4 src.code 0 m)
  | .swSelect src m => .micro (microWord 5 src.code 0 m)
  | .swWait src m => .micro (microWord 6 src.code 0 m)
  | .profLookup m => .micro (microWord 7 0 0 m)
  | .vosSetScale m => .micro (microWord 8 0 0 m)
  | .preSetAhb m => .micro (microWord 9 0 0 m)
  | .preSetApb1 m => .micro (microWord 9 0 1 m)
  | .preSetApb2 m => .micro (microWord 9 0 2 m)
  | .pllConfigure m => .micro (microWord 10 0 0 m)
  | .flashSetWs ic dc m => .micro (microWord 11 0 (BitVec.ofBool dc ++ BitVec.ofBool ic) m)
  | .freqPublish m => .micro (microWord 12 0 0 m)
  | .uEnd m => .micro (microWord 13 0 0 m)
  | .nop => .command (commandWord 0 0 0 0 0)
  | .configure c t lo hi => .command (commandWord 1 c t lo hi)
  | .cmdReserved2 => .command (commandWord 2 0 0 0 0)
  | .cmdReserved3 => .command (commandWord 3 0 0 0 0)
  | .cmdReserved4 => .command (commandWord 4 0 0 0 0)
  | .cmdReserved5 => .command (commandWord 5 0 0 0 0)
  | .cmdReserved6 => .command (commandWord 6 0 0 0 0)
  | .cmdReserved7 => .command (commandWord 7 0 0 0 0)
  | .cmdReserved8 => .command (commandWord 8 0 0 0 0)
  | .cmdReserved9 => .command (commandWord 9 0 0 0 0)
  | .cmdReserved10 => .command (commandWord 10 0 0 0 0)
  | .cmdReserved11 => .command (commandWord 11 0 0 0 0)
  | .cmdReserved12 => .command (commandWord 12 0 0 0 0)
  | .cmdReserved13 => .command (commandWord 13 0 0 0 0)
  | .cmdReserved14 => .command (commandWord 14 0 0 0 0)
  | .cmdReserved15 => .command (commandWord 15 0 0 0 0)
  | .rdStatus => .hostRead 1
  | .rdArgs => .hostRead 2
  | .rdPollLimit => .hostRead 3
  | .wrPollLimit w => .hostWrite 3 w
  | .qAhbHz => .hostRead 4
  | .qApb1Hz => .hostRead 5
  | .qApb2Hz => .hostRead 6
  | .qAhbMs => .hostRead 7
  | .qAhbUs => .hostRead 8
  | .qApb1Ms => .hostRead 9
  | .qApb1Us => .hostRead 10
  | .qApb2Ms => .hostRead 11
  | .qApb2Us => .hostRead 12
  | .rfRead _ => .bus [false]
  | .rfWrite .. => .bus [true]
  | .rfSetBits .. => .bus [false, true]
  | .rfClearBits .. => .bus [false, true]
  | .rfTest .. => .bus [false]
  | .rfMaskedUpdate .. => .bus [false, true]

/-- How a row of the opcode table numbers its word. A 32-bit row is a command word (format H) or, for format HQ, a host
offset; the two share numbers. The offsets 0x10 to 0x30 are read as host reads, every other word as a command (log entry 12). -/
def tableEncoding (nbits w : Nat) : Option Encoding :=
  match nbits with
  | 16 => some (.micro (BitVec.ofNat 16 w))
  | 32 =>
    if 16 ≤ w ∧ w ≤ 48 ∧ w % 4 = 0 then some (.hostRead (BitVec.ofNat 4 (w / 4)))
    else some (.command (BitVec.ofNat 32 w))
  | _ => none

/-- What the decoder reads from the bits the opcode table numbers, with `SwCode` of the parameters at reset. -/
def decodeTableWord (nbits w : Nat) : Option Instr :=
  match tableEncoding nbits w with
  | none => none
  | some e => (decode Machine.t0.codes.sw e).toOption

end Sys2Proof
end

