-- ==== Sys2Proof/Machine/State.lean ====
section
/-! DEFINITION. The state of the machine: the CTO's own tuple (spec/10_state.md R20) and, beside it, what stands behind its
ports (spec/20_memory.md R66 to R69, R80), the turns to come (spec/00_scope.md R14) and the read-only stores of the run. -/

namespace Sys2Proof.Machine

/-- The nine published-frequency registers (10 R30). -/
structure Bank where
  ahbHz : Word
  apb1Hz : Word
  apb2Hz : Word
  ahbMs : Word
  ahbUs : Word
  apb1Ms : Word
  apb1Us : Word
  apb2Ms : Word
  apb2Us : Word
deriving DecidableEq, Repr

/-- The complete state of the CTO (10 R20: "Nothing else is state"). -/
structure Cto where
  /-- orchestrator state (R21) -/
  state : OState
  /-- micro-program counter (R22) -/
  upc : BitVec 5
  /-- phase inside the current micro-operation, `true` for 1 (R23) -/
  ph : Bool
  /-- read-modify-write holding latch (R23); `none` is the spec's "holds no value" -/
  tmp : Option Word
  /-- latched operand (R24); `none` is the spec's "holds no value" -/
  crystal : Option (BitVec 8)
  /-- latched operand (R24); `none` is the spec's "holds no value" -/
  target : Option (BitVec 8)
  /-- operands have been latched (R24) -/
  argsValid : Bool
  /-- profile latch (R25) -/
  prof : Option ClockScaleProfile
  /-- a run is in progress (R26) -/
  busy : Bool
  /-- the last run reached END (R26) -/
  done : Bool
  /-- the run stopped on a fault (R26) -/
  fault : Bool
  /-- result of OSC_IS_READY (R26) -/
  rdy : Bool
  /-- which fault (R27) -/
  faultCode : BitVec 4
  /-- clock source of the fault (R27) -/
  faultSrc : BitVec 3
  /-- verdict of the last CMD write (R28) -/
  cmderr : BitVec 2
  /-- failed polls of the current wait (R29) -/
  pollcnt : Word
  /-- poll limit of the current run (R29) -/
  limit : Word
  /-- host-written poll limit (R29) -/
  pollLimit : Word
  /-- published-frequency registers (R30) -/
  bank : Bank
deriving DecidableEq, Repr

/-- The storage behind the master port: the bytes some write has stored since launch, by address, strictly rising.
An unlisted address holds no written value and reads as its launch value (20 R66, R68). -/
abbrev Memory := List Host.Cell

/-- The canonical form of a memory: addresses strictly rising. No entry can equal what an unlisted address holds, since
that is no value at all (log entry 1). -/
def Memory.wf : Memory → Bool
  | [] => true
  | [_] => true
  | c :: d :: rest => decide (c.1 < d.1) && Memory.wf (d :: rest)

/-- Which environment answers the status bits (20 R69, R70). -/
inductive Env where
  /-- the unconstrained oracle of R69: every read draws a fresh free value -/
  | free
  /-- answers given in advance, one a read, oldest first; after the last, as `free` -/
  | scripted (answers : List Word)
  /-- `EnvNominal` -/
  | nominal
  /-- `EnvStuck(s)` -/
  | stuck (src : ClockSource)
  /-- `EnvStuckSw` -/
  | stuckSw
  /-- `EnvDelay(k)` -/
  | delay (k : Nat)
deriving DecidableEq, Repr

/-- What a master-port read is for: `EnvDelay` answers polls differently (20 R70). -/
inductive Purpose where
  | plain
  | pollReady (src : ClockSource)
  | pollSwitch
deriving DecidableEq, Repr

/-- One master-port transaction as the trace records it (20 R80). -/
structure Txn where
  upc : BitVec 5
  we : Bool
  addr : Addr
  data : Word
deriving DecidableEq, Repr

/-- One access on the host port, of any form; only aligned 32-bit accesses of the sixteen registers exist (20 R62). -/
structure HostAccess where
  we : Bool
  addr : Nat
  bytes : Nat
  data : Word
deriving DecidableEq, Repr

/-- One turn of an agent (00 R14). -/
inductive Turn where
  /-- the sequencer's turn -/
  | sequencer
  /-- a host access (48 R200) -/
  | host (a : HostAccess)
  /-- `rst_n` is pulsed (70 R250) -/
  | reset
  /-- another bus master writes an external register (20 R79) -/
  | foreignWrite (a : Addr) (v : Word)
deriving DecidableEq, Repr

/-- The machine: the CTO, what stands behind its ports, and the turns to come. -/
structure State where
  /-- the CTO's own state (10 R20) -/
  cto : Cto
  /-- storage of the external registers (20 R68) -/
  mem : Memory
  /-- the environment (20 R69, R70); the model's own field -/
  env : Env
  /-- how many status answers have been drawn (20 R69); the model's own field -/
  draws : Nat
  /-- the master-port transactions so far, oldest first (20 R80); an observation -/
  trace : List Txn
  /-- the values host reads, RF_READ and RF_TEST have returned, oldest first; an observation -/
  returned : List Word
  /-- turns to come, first one next; when none is listed the sequencer has the turn (00 R14); the model's own field -/
  agenda : List Turn
  /-- the parameters of the run (00 R8 to R10); read-only -/
  params : Params
  /-- the micro-ROM (10 R31); read-only -/
  urom : Vector MicroWord 32
deriving DecidableEq, Repr

/-- The six faults of the CTO (60 R221). Taking one is a next state (R224), not a stop of the model. -/
inductive FaultCause where
  | oscillatorTimeout (src : ClockSource)
  | clockSwitchTimeout (src : ClockSource)
  | pllRunning
  | illegalUop
  | badProfile
  | noProfile
deriving DecidableEq, Repr

/-- Where the model stops with a fault. -/
inductive Fault where
  /-- A transaction at an address RegMap does not name, which 20 R66 and R67 exclude by precondition. Raised by the RF
  primitives given such an address and by a foreign write to one; no micro-operation can raise it. Safe. -/
  | noSuchRegister (a : Addr)
deriving DecidableEq, Repr

/-- Where the model refuses. -/
inductive Refusal where
  /-- An instruction that has no meaning yet; raised by exec only. Safe. -/
  | notModelled (mnemonic : String)
  /-- The register map breaks 00 R9 ("refusing the configuration otherwise", 93 U17), or the tables break 00 R8 or R10
  (DESIGN CHOICE, log entry 28). Raised by every step. Safe. -/
  | badConfiguration
  /-- A host access that is not one aligned 32-bit access of the sixteen host registers ("the model gives them no
  meaning (refused)", 20 R62, 93 U16). Raised by the host's turn. Safe. -/
  | hostAccessForm
  /-- A foreign write while busy = 1 ("the model has no such move during a run", 93 U7, 20 R79). Raised by that turn. Safe. -/
  | foreignWriteDuringRun
deriving DecidableEq, Repr

/-- The outcome of a step of this machine. -/
abbrev Result := Host.Outcome State Fault Refusal

/-- The bank at reset (10 R30, R49). -/
def Bank.reset : Bank where
  ahbHz := 8000000
  apb1Hz := 8000000
  apb2Hz := 8000000
  ahbMs := 8000
  ahbUs := 8
  apb1Ms := 8000
  apb1Us := 8
  apb2Ms := 8000
  apb2Us := 8

/-- The CTO after reset (10 R49). -/
def Cto.reset : Cto where
  state := .idle
  upc := 0
  ph := false
  tmp := none
  crystal := none
  target := none
  argsValid := false
  prof := none
  busy := false
  done := false
  fault := false
  rdy := false
  faultCode := 0
  faultSrc := 0
  cmderr := 0
  pollcnt := 0
  limit := 0
  pollLimit := 0
  bank := Bank.reset

/-- The machine at launch with given parameters: the CTO at reset, nothing written, the fixed micro-ROM. -/
def State.launch (p : Params) : State where
  cto := Cto.reset
  mem := []
  env := .free
  draws := 0
  trace := []
  returned := []
  agenda := []
  params := p
  urom := rom

/-- The machine right after reset, with the parameters of T0 (log entry 5). -/
def State.reset : State := State.launch t0

end Sys2Proof.Machine
end

