-- ==== Sys2Proof/Machine/Ops.lean ====
section
/-! DEFINITION. The shared operations: memory, the environment's answers, the two master-port transactions
(spec/20_memory.md), the end of a micro-operation (spec/47_orchestrator.md R181), taking a fault and reset
(spec/60_exceptions.md R224, R225, spec/70_reset_and_hazards.md R250), and the shapes that micro-operations share. -/

namespace Sys2Proof.Machine

/-! ## Memory -/

/-- The byte some write has stored at an address, or none. -/
def Memory.lookup : Memory → Nat → Option Byte
  | [], _ => none
  | (k, b) :: rest, a => if k = a then some b else Memory.lookup rest a

/-- Store a byte, keeping the canonical form. -/
def Memory.insert : Memory → Nat → Byte → Memory
  | [], a, v => [(a, v)]
  | (k, b) :: rest, a, v =>
    if a < k then (a, v) :: (k, b) :: rest
    else if k = a then (a, v) :: rest
    else (k, b) :: Memory.insert rest a v

/-- What a byte reads as: the value last written, or its launch value if none has written it (20 R66). -/
def Memory.byte (m : Memory) (a : Nat) : Byte := (m.lookup a).getD (Config.ext0 a)

/-- The 32-bit word at an address, little-endian lanes (20 R63). -/
def Memory.word (m : Memory) (a : Addr) : Word :=
  m.byte (a.toNat + 3) ++ m.byte (a.toNat + 2) ++ m.byte (a.toNat + 1) ++ m.byte a.toNat

/-- Store a 32-bit word, little-endian lanes (20 R63). -/
def Memory.storeWord (m : Memory) (a : Addr) (v : Word) : Memory :=
  (((m.insert a.toNat (v.extractLsb' 0 8)).insert (a.toNat + 1) (v.extractLsb' 8 8)).insert
    (a.toNat + 2) (v.extractLsb' 16 8)).insert (a.toNat + 3) (v.extractLsb' 24 8)

/-- A write as the external blocks take it: every storage bit takes the written value, every status bit is unchanged (20 R67). -/
def Memory.write (m : Memory) (r : RegMap) (a : Addr) (v : Word) : Memory :=
  m.storeWord a ((m.word a &&& statusMask r a) ||| (v &&& ~~~statusMask r a))

/-! ## The environment (20 R69, R70) -/

/-- The value of a storage bit. -/
def storedBit (m : Memory) (l : BitLoc) : Bool := (m.word l.addr).getLsbD l.bit

/-- The ready bits of the word at `a`, each source's given by `rdy`. -/
def readyWord (r : RegMap) (a : Addr) (rdy : ClockSource → Bool) : Word :=
  [ClockSource.hsi, .hse, .pll, .pllsai, .plli2s, .lse, .lsi].foldr
    (fun s w => if (r.rdy.get s).addr = a ∧ rdy s = true then (r.rdy.get s).smask ||| w else w) 0

/-- The switch-status field of the word at `a`, showing `v` truncated to the field's width (DESIGN CHOICE, log entry 30). -/
def switchWord (r : RegMap) (a : Addr) (v : Word) : Word := if a = r.cfgAddr then r.sws.place v else 0

/-- `EnvNominal` and its variants: ready follows enable except where `rdy` is overruled; the switch status shows the
source-select field, or its complement (20 R70). DESIGN CHOICE (log entry 30): where the two fields differ in width, which 00 R9
admits and R70 does not settle, the status shows the select field truncated or extended by zeros to the status field's width,
and the complement is taken within the status field. -/
def followingAnswer (r : RegMap) (m : Memory) (a : Addr) (notReady : Option ClockSource) (complement : Bool) : Word :=
  readyWord r a (fun s => storedBit m (r.en.get s) && notReady != some s) |||
  switchWord r a (if complement then ~~~(r.sw.get (m.word r.cfgAddr)) else r.sw.get (m.word r.cfgAddr))

/-- The environment's answer to a read of the word at `a`; only its status bits are used. -/
def envAnswer (s : State) (why : Purpose) (a : Addr) : Word :=
  match s.env with
  | .free => Config.statusDraw s.draws
  | .scripted [] => Config.statusDraw s.draws
  | .scripted (w :: _) => w
  | .nominal => followingAnswer s.params.regs s.mem a none false
  | .stuck src => followingAnswer s.params.regs s.mem a (some src) false
  | .stuckSw => followingAnswer s.params.regs s.mem a none true
  | .delay k =>
    if s.cto.pollcnt.toNat < k then
      match why with
      | .plain => followingAnswer s.params.regs s.mem a none false
      | .pollReady src => followingAnswer s.params.regs s.mem a (some src) false
      | .pollSwitch => followingAnswer s.params.regs s.mem a none true
    else followingAnswer s.params.regs s.mem a none false

/-- The environment after an answer: a script loses its first entry. -/
def Env.advance : Env → Env
  | .scripted (_ :: ws) => .scripted ws
  | e => e

/-! ## The two transactions (20 R66, R67) -/

/-- The word `MemRead(a, 4)` returns: storage bits from the storage, status bits from the environment (20 R66). -/
def readValue (s : State) (why : Purpose) (a : Addr) : Word :=
  (s.mem.word a &&& ~~~statusMask s.params.regs a) ||| (envAnswer s why a &&& statusMask s.params.regs a)

/-- The state after `MemRead(a, 4)`: only the record and the environment's draw move (20 R66, R71, R80). -/
def afterRead (s : State) (why : Purpose) (a : Addr) : State :=
  { s with
    env := s.env.advance
    draws := s.draws + 1
    trace := s.trace ++ [⟨s.cto.upc, false, a, readValue s why a⟩] }

/-- The state after `MemWrite(a, 4, v)` (20 R67, R80). -/
def afterWrite (s : State) (a : Addr) (v : Word) : State :=
  { s with
    mem := s.mem.write s.params.regs a v
    trace := s.trace ++ [⟨s.cto.upc, true, a, v⟩] }

/-- Hand a value back to whoever asked for it (host reads, RF_READ, RF_TEST). -/
def reply (s : State) (v : Word) : State := { s with returned := s.returned ++ [v] }

/-! ## Completion (47 R181) -/

/-- The state register after a mark. -/
def Mark.apply : Mark → OState → OState
  | .enter st, _ => st
  | .keep, old => old

/-- `Complete(mark)` on the CTO. -/
def Cto.complete (c : Cto) (m : Mark) : Cto :=
  { c with state := Mark.apply m c.state, ph := false, tmp := none, pollcnt := 0, upc := c.upc + 1 }

/-- `Complete(mark)`, the common end of every micro-operation but END (47 R181). -/
def complete (m : Mark) (s : State) : State := { s with cto := s.cto.complete m }

/-! ## Taking a fault, and the one way back (60 R221, R224, R225) -/

/-- The code of a fault (60 R221). -/
def FaultCause.code : FaultCause → BitVec 4
  | .oscillatorTimeout _ => 1
  | .clockSwitchTimeout _ => 2
  | .pllRunning => 3
  | .illegalUop => 4
  | .badProfile => 5
  | .noProfile => 6

/-- The clock source a fault records (60 R221): its source, 2 for PllRunning, else 0. -/
def FaultCause.source : FaultCause → BitVec 3
  | .oscillatorTimeout s => s.code
  | .clockSwitchTimeout s => s.code
  | .pllRunning => 2
  | .illegalUop => 0
  | .badProfile => 0
  | .noProfile => 0

/-- `raise F(info)` on the CTO: fault, fault_code and fault_src are written, everything else is unchanged (60 R224). -/
def Cto.raise (c : Cto) (f : FaultCause) : Cto :=
  { c with fault := true, faultCode := f.code, faultSrc := f.source }

/-- Taking a fault (60 R224): the sequencer stops, nothing is saved elsewhere, no handler runs. -/
def raise (f : FaultCause) (s : State) : State := { s with cto := s.cto.raise f }

/-- Reset, the only way out of a fault or a hang (60 R225, 70 R250). The CTO's state alone takes its reset values: no
transaction is made and the external registers keep what was written. -/
def resetCto (s : State) : State := { s with cto := Cto.reset }

/-! ## Shapes shared by micro-operations -/

/-- `prof!`: use the profile latch, or raise NoProfile (00 R13, 10 R25). -/
def withProfile (s : State) (k : ClockScaleProfile → State) : State :=
  match s.cto.prof with
  | none => raise .noProfile s
  | some p => k p

/-- The word held between the read and the write of a read-modify-write (10 R23). -/
def Cto.held (c : Cto) : Word := c.tmp.getD Config.emptyTmp

/-- The first half of a read-modify-write, and of PLL_CONFIGURE: the read, kept in `tmp`, and `ph <- 1` (10 R23). -/
def rmwRead (s : State) (a : Addr) : State :=
  let v := readValue s .plain a
  let s' := afterRead s .plain a
  { s' with cto := { s'.cto with tmp := some v, ph := true } }

/-- A read-modify-write of the word at `a`: the read at ph = 0; at ph = 1 the write of `f tmp`, then `finish` (10 R23, 20 R72). -/
def rmw (s : State) (a : Addr) (f : Word → Word) (finish : State → State) : State :=
  if s.cto.ph then finish (afterWrite s a (f s.cto.held)) else rmwRead s a

/-- The CTO after a failed poll: the count goes up and the limit, if any, is compared (41 R133, 46 R172, 60 R236). -/
def Cto.failedPoll (c : Cto) (timeout : FaultCause) : Cto :=
  let c' := { c with pollcnt := c.pollcnt + 1 }
  if c'.limit ≠ 0 ∧ c'.pollcnt = c'.limit then c'.raise timeout else c'

/-- One poll of a wait: one read; completion if `ok` holds of the word read, else a failed poll (41 R133, 46 R172). -/
def poll (s : State) (why : Purpose) (a : Addr) (ok : Word → Bool) (timeout : FaultCause) (m : Mark) : State :=
  let v := readValue s why a
  let s' := afterRead s why a
  if ok v then complete m s' else { s' with cto := s'.cto.failedPoll timeout }

end Sys2Proof.Machine
end

