-- ==== Sys2Proof/Machine/Operands.lean ====
section
/-! DEFINITION. The words the register-field primitives compute (spec/40_registerfield.md R122 to R125), the words
micro-operations write from their implicit operands (spec/42_pll.md R142, spec/43_voltage.md R150, spec/44_flash.md R155), and
the operands a latch gives. -/

namespace Sys2Proof.Machine

/-- The word `set_bits(k)` writes (40 R122). -/
def setBits (t k : Word) : Word := t ||| k

/-- The word `clear_bits(k)` writes (40 R123). -/
def clearBits (t k : Word) : Word := t &&& ~~~k

/-- `test(k)`: any masked bit set (40 R124). -/
def testBits (t k : Word) : Bool := (t &&& k) != 0

/-- The word `masked_update(m, s, v)` writes, `v` any natural number (40 R125). -/
def maskedUpdate (t m : Word) (sh : Nat) (v : Nat) : Word :=
  (t &&& ~~~(m <<< sh)) ||| ((BitVec.ofNat 32 v &&& m) <<< sh)

/-- `masked_update` of a field descriptor (40 R127). -/
def fieldUpdate (f : Field) (t v : Word) : Word := maskedUpdate t f.mask f.shift v.toNat

/-- The latched crystal code (10 R24). -/
def Cto.crystalCode (c : Cto) : BitVec 8 := c.crystal.getD Config.emptyCrystal

/-- The latched target code (10 R24). -/
def Cto.targetCode (c : Cto) : BitVec 8 := c.target.getD Config.emptyTarget

/-- The table entry of the latched operands (47 R185). -/
def selectedProfile (s : State) : ClockScaleProfile := profileAt s.params s.cto.crystalCode s.cto.targetCode

/-- The R divider as written: a value below 2 is clamped to 2 (42 R142). -/
def clampedR (p : ClockScaleProfile) : Word := if p.pllr.toNat < Config.pllrMin then 2 else p.pllr.setWidth 32

/-- The field code of the P divider, `EncP(p.pllp)` (42 R142). -/
def pCode (c : Codes) (p : ClockScaleProfile) : Word := (encP c p.pllp).getD (Config.unencodableP p.pllp)

/-- `PllWord(p)`, the single combined value of the PLL configuration register (42 R142). -/
def pllWord (q : Params) (p : ClockScaleProfile) : Word :=
  q.regs.pllM.place (p.pllm.setWidth 32) ||| q.regs.pllN.place (p.plln.setWidth 32) |||
  q.regs.pllP.place (pCode q.codes p) ||| q.regs.pllQ.place (p.pllq.setWidth 32) |||
  q.regs.pllR.place (clampedR p) ||| q.regs.pllSrc.place q.regs.pllsrcHse

/-- The voltage code of a profile (43 R150). -/
def vosCode (r : RegMap) (p : ClockScaleProfile) : Word := if p.powerSave then r.vosLow else r.vosHigh

/-- The bits FLASH_SET_WS replaces (44 R155). -/
def flashMask (r : RegMap) : Word := r.latency.smask ||| bitMask r.icen ||| bitMask r.dcen

/-- A one-bit operand in place. -/
def bitAt (on : Bool) (b : Nat) : Word := if on then bitMask b else 0

/-- The word FLASH_SET_WS writes: latency and both cache enables together (44 R155). -/
def flashWord (r : RegMap) (ws : BitVec 16) (ic dc : Bool) (t : Word) : Word :=
  (t &&& ~~~flashMask r) ||| r.latency.place (ws.setWidth 32) ||| bitAt ic r.icen ||| bitAt dc r.dcen

/-! ## The arithmetic of the published frequencies (47 R186) -/

/-- Floor division; by zero, which R185 and R10 exclude, a free value. -/
def quot (n d : Nat) : Nat := if d = 0 then Config.divByZero n else n / d

/-- PLL input frequency `c / pllm` (42 R140, 47 R186). -/
def vinHz (c : Nat) (p : ClockScaleProfile) : Nat := quot c p.pllm.toNat

/-- VCO frequency (42 R140, 47 R186). -/
def vcoHz (c : Nat) (p : ClockScaleProfile) : Nat := vinHz c p * p.plln.toNat

/-- SYSCLK frequency (42 R140, 47 R186). -/
def sysHz (c : Nat) (p : ClockScaleProfile) : Nat := quot (vcoHz c p) p.pllp.toNat

/-- AHB frequency (47 R186). -/
def ahbHz (k : Codes) (c : Nat) (p : ClockScaleProfile) : Nat := quot (sysHz c p) (hpreDiv k p.hpre)

/-- APB1 frequency: the AHB frequency divided (47 R186, 92 D19). -/
def apb1Hz (k : Codes) (c : Nat) (p : ClockScaleProfile) : Nat := quot (ahbHz k c p) (ppreDiv k p.ppre1)

/-- APB2 frequency: the AHB frequency divided (47 R186, 92 D19). -/
def apb2Hz (k : Codes) (c : Nat) (p : ClockScaleProfile) : Nat := quot (ahbHz k c p) (ppreDiv k p.ppre2)

/-- The per-ms value of a published frequency (10 R30, 92 D20). -/
def perMs (hz : Word) : Word := BitVec.ofNat 32 (hz.toNat / 1000)

/-- The per-µs value of a published frequency (10 R30, 92 D20). -/
def perUs (hz : Word) : Word := BitVec.ofNat 32 (hz.toNat / 1000000)

/-- The bank with three Hz values and the six values derived from them (10 R30). -/
def Bank.ofHz (ahb apb1 apb2 : Word) : Bank where
  ahbHz := ahb
  apb1Hz := apb1
  apb2Hz := apb2
  ahbMs := perMs ahb
  ahbUs := perUs ahb
  apb1Ms := perMs apb1
  apb1Us := perUs apb1
  apb2Ms := perMs apb2
  apb2Us := perUs apb2

/-- The nine values FREQ_PUBLISH writes, truncated to 32 bits at the end only (47 R187, 92 D18). -/
def publishedBank (q : Params) (crystal : BitVec 8) (p : ClockScaleProfile) : Bank :=
  let c := crystalHzAt q crystal
  Bank.ofHz (BitVec.ofNat 32 (ahbHz q.codes c p)) (BitVec.ofNat 32 (apb1Hz q.codes c p))
    (BitVec.ofNat 32 (apb2Hz q.codes c p))

/-- A profile that cannot be executed (47 R185, 92 D27). -/
def badProfile (k : Codes) (p : ClockScaleProfile) : Bool := p.pllm == 0 || p.pllp == 0 || (encP k p.pllp).isNone

/-! ## Obligations on the table's contents, decidable over a given table and evaluated by no step (42 R141, 44 R157) -/

/-- `ProfileValid(c, p)`, `c` in Hz (42 R141). -/
def profileValid (c : Nat) (p : ClockScaleProfile) : Bool :=
  p.pllm != 0 &&
  decide (Config.pllInMin ≤ c / p.pllm.toNat ∧ c / p.pllm.toNat ≤ Config.pllInMax) &&
  decide (Config.vcoMin ≤ c / p.pllm.toNat * p.plln.toNat ∧ c / p.pllm.toNat * p.plln.toNat ≤ Config.vcoMax)

/-- The documented exception: PLL input 1 MHz, VCO 96 MHz (42 R141, 90 C1). -/
def profileExcepted (c : Nat) (p : ClockScaleProfile) : Bool :=
  p.pllm != 0 && c / p.pllm.toNat == 1000000 && c / p.pllm.toNat * p.plln.toNat == 96000000

/-- The obligation on a whole table (42 R141). -/
def tableValid (q : Params) : Bool :=
  (List.range q.ncrystal).all fun c => (List.range q.ntarget).all fun t =>
    let hz := q.crystalHz.getD c 0
    match (q.profiles.getD c [])[t]? with
    | none => false
    | some p => profileValid hz p || profileExcepted hz p

/-- Monotonic latency of a table (44 R157): for one crystal, a target with no higher SYSCLK has no more wait-states.
DESIGN CHOICE (log entry 27): an entry with `pllm = 0` or `pllp = 0`, to which 42 R140 gives no frequency, counts as 0 Hz. -/
def latencyMonotone (q : Params) : Bool :=
  (List.range q.ncrystal).all fun c =>
    let hz := q.crystalHz.getD c 0
    (q.profiles.getD c []).all fun p1 => (q.profiles.getD c []).all fun p2 =>
      if hz / p1.pllm.toNat * p1.plln.toNat / p1.pllp.toNat ≤ hz / p2.pllm.toNat * p2.plln.toNat / p2.pllp.toNat then
        decide (p1.flashWaitStates.toNat ≤ p2.flashWaitStates.toNat)
      else true

end Sys2Proof.Machine
end

