-- ==== Sys2Proof/Machine/Flags.lean ====
section
/-! DEFINITION. The host-visible words computed from the flags and latches (spec/10_state.md R42 to R44,
spec/48_host.md R213, R214) and the verdicts of a CMD write (spec/60_exceptions.md R228). -/

namespace Sys2Proof.Machine

/-- `STATUS`, all fields of one instant (10 R42, 48 R213). -/
def statusWord (c : Cto) : Word :=
  0#6 ++ c.cmderr ++ 0#3 ++ c.upc ++ 0#1 ++ c.faultSrc ++ c.faultCode ++ BitVec.ofBool c.rdy ++ BitVec.ofBool c.fault ++
  BitVec.ofBool c.done ++ BitVec.ofBool c.busy ++ c.state.code

/-- `ARGS` (10 R43, 48 R214). -/
def argsWord (c : Cto) : Word :=
  if c.argsValid then 1#1 ++ 0#15 ++ c.targetCode ++ c.crystalCode else 0

/-- `cmderr` verdicts (10 R28). -/
def accepted : BitVec 2 := 0
def busyReject : BitVec 2 := 1
def badOpcode : BitVec 2 := 2
def badArgs : BitVec 2 := 3

/-- A CMD write that changes only its verdict (60 R228). -/
def verdict (s : State) (v : BitVec 2) : State := { s with cto := { s.cto with cmderr := v } }

/-- The sequencer has a step exactly then (10 R26, 47 R180). -/
def Cto.running (c : Cto) : Bool := c.busy && !c.fault

end Sys2Proof.Machine
end

