-- ==== Sys2Proof/Machine/ClockSwitch.lean ====
section
/-! DEFINITION. The SW family: spec/46_clock_switch.md R170 to R172. -/

namespace Sys2Proof.Machine

/-- The SYSCLK code of a source; without one the word is illegal and faults before any transaction (46 R170, 30 R101). -/
def withSwCode (s : State) (src : ClockSource) (k : Word → State) : State :=
  match s.params.codes.sw.get src with
  | none => raise .illegalUop s
  | some c => k c

/-- `SW_SELECT src` (46 R171). -/
def execSwSelect (src : ClockSource) (mark : Mark) (s : State) : Result :=
  .next (withSwCode s src fun c =>
    rmw s s.params.regs.cfgAddr (fun t => fieldUpdate s.params.regs.sw t c) (complete mark))

/-- `SW_WAIT src`, one poll (46 R172). -/
def execSwWait (src : ClockSource) (mark : Mark) (s : State) : Result :=
  .next (withSwCode s src fun c =>
    poll s .pollSwitch s.params.regs.cfgAddr (fun v => s.params.regs.sws.get v == (c &&& s.params.regs.sws.mask))
      (.clockSwitchTimeout src) mark)

end Sys2Proof.Machine
end

