-- ==== Sys2Proof/Machine/Flash.lean ====
section
/-! DEFINITION. The FLASH family: spec/44_flash.md R155. -/

namespace Sys2Proof.Machine

/-- `FLASH_SET_WS [ic] [dc]` (44 R155). -/
def execFlashSetWs (ic dc : Bool) (mark : Mark) (s : State) : Result :=
  .next (withProfile s fun p =>
    rmw s s.params.regs.flashAddr (flashWord s.params.regs p.flashWaitStates ic dc) (complete mark))

end Sys2Proof.Machine
end

