-- ==== Sys2Proof/Machine/HostPort.lean ====
section
/-! DEFINITION. The HOST family: spec/48_host.md R200 to R218. A read hands its value back through `returned`. -/

namespace Sys2Proof.Machine

/-- A host read: it returns the value and changes nothing of the CTO (48 R218). -/
def hostRead (s : State) (v : Word) : Result := .next (reply s v)

/-- A reserved command opcode: rejected with BadOpcode, checked before busy (48 R203). -/
def rejectOpcode (s : State) : Result := .next (verdict s badOpcode)

/-- `NOP` (48 R201). -/
def execNop (s : State) : Result := .next (verdict s accepted)

/-- Operands or reserved bits that CONFIGURE refuses (48 R202, 30 R102). -/
def badConfigureArgs (q : Params) (crystal target : BitVec 8) (rsvLo : BitVec 4) (rsvHi : BitVec 8) : Bool :=
  rsvLo != 0 || rsvHi != 0 || decide (q.ncrystal ≤ crystal.toNat) || decide (q.ntarget ≤ target.toNat)

/-- Acceptance of CONFIGURE on the CTO (48 R202). -/
def Cto.accept (c : Cto) (crystal target : BitVec 8) : Cto :=
  { c with
    crystal := some crystal
    target := some target
    argsValid := true
    limit := c.pollLimit
    prof := none
    state := .idle
    upc := 0
    ph := false
    tmp := none
    pollcnt := 0
    done := false
    busy := true
    cmderr := accepted }

/-- `CONFIGURE crystal, target`, its checks in the order of 48 R202. -/
def execConfigure (crystal target : BitVec 8) (rsvLo : BitVec 4) (rsvHi : BitVec 8) (s : State) : Result :=
  .next (if s.cto.busy || s.cto.fault then verdict s busyReject
    else if badConfigureArgs s.params crystal target rsvLo rsvHi then verdict s badArgs
    else { s with cto := s.cto.accept crystal target })

/-- Reserved command opcode 2 (48 R203). -/
def execCmdReserved2 (s : State) : Result := rejectOpcode s

/-- Reserved command opcode 3 (48 R203). -/
def execCmdReserved3 (s : State) : Result := rejectOpcode s

/-- Reserved command opcode 4 (48 R203). -/
def execCmdReserved4 (s : State) : Result := rejectOpcode s

/-- Reserved command opcode 5 (48 R203). -/
def execCmdReserved5 (s : State) : Result := rejectOpcode s

/-- Reserved command opcode 6 (48 R203). -/
def execCmdReserved6 (s : State) : Result := rejectOpcode s

/-- Reserved command opcode 7 (48 R203). -/
def execCmdReserved7 (s : State) : Result := rejectOpcode s

/-- Reserved command opcode 8 (48 R203). -/
def execCmdReserved8 (s : State) : Result := rejectOpcode s

/-- Reserved command opcode 9 (48 R203). -/
def execCmdReserved9 (s : State) : Result := rejectOpcode s

/-- Reserved command opcode 10 (48 R203). -/
def execCmdReserved10 (s : State) : Result := rejectOpcode s

/-- Reserved command opcode 11 (48 R203). -/
def execCmdReserved11 (s : State) : Result := rejectOpcode s

/-- Reserved command opcode 12 (48 R203). -/
def execCmdReserved12 (s : State) : Result := rejectOpcode s

/-- Reserved command opcode 13 (48 R203). -/
def execCmdReserved13 (s : State) : Result := rejectOpcode s

/-- Reserved command opcode 14 (48 R203). -/
def execCmdReserved14 (s : State) : Result := rejectOpcode s

/-- Reserved command opcode 15 (48 R203). -/
def execCmdReserved15 (s : State) : Result := rejectOpcode s

/-- `RD_STATUS` (48 R213). -/
def execRdStatus (s : State) : Result := hostRead s (statusWord s.cto)

/-- `RD_ARGS` (48 R214). -/
def execRdArgs (s : State) : Result := hostRead s (argsWord s.cto)

/-- `RD_POLL_LIMIT` (48 R215). -/
def execRdPollLimit (s : State) : Result := hostRead s s.cto.pollLimit

/-- `WR_POLL_LIMIT`: it takes effect at the next acceptance (48 R215, 10 R29). -/
def execWrPollLimit (w : Word) (s : State) : Result := .next { s with cto := { s.cto with pollLimit := w } }

/-- The accessor of `ahbHz` (48 R204). -/
def execQAhbHz (s : State) : Result := hostRead s s.cto.bank.ahbHz

/-- The accessor of `apb1Hz` (48 R205). -/
def execQApb1Hz (s : State) : Result := hostRead s s.cto.bank.apb1Hz

/-- The accessor of `apb2Hz` (48 R206). -/
def execQApb2Hz (s : State) : Result := hostRead s s.cto.bank.apb2Hz

/-- The accessor of `ahbMs` (48 R207). -/
def execQAhbMs (s : State) : Result := hostRead s s.cto.bank.ahbMs

/-- The accessor of `ahbUs` (48 R208). -/
def execQAhbUs (s : State) : Result := hostRead s s.cto.bank.ahbUs

/-- The accessor of `apb1Ms` (48 R209). -/
def execQApb1Ms (s : State) : Result := hostRead s s.cto.bank.apb1Ms

/-- The accessor of `apb1Us` (48 R210). -/
def execQApb1Us (s : State) : Result := hostRead s s.cto.bank.apb1Us

/-- The accessor of `apb2Ms` (48 R211). -/
def execQApb2Ms (s : State) : Result := hostRead s s.cto.bank.apb2Ms

/-- The accessor of `apb2Us` (48 R212). -/
def execQApb2Us (s : State) : Result := hostRead s s.cto.bank.apb2Us

end Sys2Proof.Machine
end

