-- ==== Sys2Proof/Machine/Orchestrator.lean ====
section
/-! DEFINITION. The SEQ family: spec/47_orchestrator.md R185 to R188. -/

namespace Sys2Proof.Machine

/-- `PROF_LOOKUP` (47 R185). -/
def execProfLookup (mark : Mark) (s : State) : Result :=
  let p := selectedProfile s
  .next (if badProfile s.params.codes p then raise .badProfile s
    else complete mark { s with cto := { s.cto with prof := some p } })

/-- `FREQ_PUBLISH`: all nine registers in this one step (47 R187). -/
def execFreqPublish (mark : Mark) (s : State) : Result :=
  .next (withProfile s fun p =>
    complete mark { s with cto := { s.cto with bank := publishedBank s.params s.cto.crystalCode p } })

/-- `END` on the CTO (47 R188). -/
def Cto.finish (c : Cto) (m : Mark) : Cto :=
  { c with state := Mark.apply m c.state, busy := false, done := true, upc := 0, ph := false, tmp := none, pollcnt := 0 }

/-- `END` (47 R188). -/
def execEnd (mark : Mark) (s : State) : Result :=
  .next { s with cto := s.cto.finish mark }

end Sys2Proof.Machine
end

