-- ==== Sys2Proof/Machine/Oscillator.lean ====
section
/-! DEFINITION. The OSC family: spec/41_oscillator.md R130 to R134. -/

namespace Sys2Proof.Machine

/-- `OSC_ENABLE src` (41 R131). -/
def execOscEnable (src : ClockSource) (mark : Mark) (s : State) : Result :=
  let l := s.params.regs.en.get src
  .next (rmw s l.addr (fun t => setBits t l.smask) (complete mark))

/-- `OSC_DISABLE src` (41 R132). -/
def execOscDisable (src : ClockSource) (mark : Mark) (s : State) : Result :=
  let l := s.params.regs.en.get src
  .next (rmw s l.addr (fun t => clearBits t l.smask) (complete mark))

/-- `OSC_WAIT_READY src`, one poll (41 R133). -/
def execOscWaitReady (src : ClockSource) (mark : Mark) (s : State) : Result :=
  let l := s.params.regs.rdy.get src
  .next (poll s (.pollReady src) l.addr (fun v => testBits v l.smask) (.oscillatorTimeout src) mark)

/-- `OSC_IS_READY src` (41 R134). -/
def execOscIsReady (src : ClockSource) (mark : Mark) (s : State) : Result :=
  let l := s.params.regs.rdy.get src
  let s' := afterRead s .plain l.addr
  .next (complete mark { s' with cto := { s'.cto with rdy := testBits (readValue s .plain l.addr) l.smask } })

end Sys2Proof.Machine
end

