-- ==== Sys2Proof/Machine/Pll.lean ====
section
/-! DEFINITION. The PLL family: spec/42_pll.md R142, R143. -/

namespace Sys2Proof.Machine

/-- The test of the PLL enable bit, made before any write (42 R143). Passed, it leaves the word read in `tmp` and `ph` at 1
like every first half (10 R23); failed, it leaves both as they were (60 R224; log entry 13). -/
def pllTest (s : State) : State :=
  let l := s.params.regs.en.pll
  if testBits (readValue s .plain l.addr) l.smask then raise .pllRunning (afterRead s .plain l.addr)
  else rmwRead s l.addr

/-- `PLL_CONFIGURE` (42 R143). -/
def execPllConfigure (mark : Mark) (s : State) : Result :=
  .next (withProfile s fun p =>
    if s.cto.ph then complete mark (afterWrite s s.params.regs.pllcfgAddr (pllWord s.params p)) else pllTest s)

end Sys2Proof.Machine
end

