-- ==== Sys2Proof/Machine/Prescaler.lean ====
section
/-! DEFINITION. The PRE family: spec/45_prescaler.md R160 to R163. -/

namespace Sys2Proof.Machine

/-- The common form: one code of the profile into one field of the clock-configuration word (45 R160). -/
def setPrescaler (s : State) (f : Field) (code : ClockScaleProfile → BitVec 8) (mark : Mark) : State :=
  withProfile s fun p =>
    rmw s s.params.regs.cfgAddr (fun t => fieldUpdate f t ((code p).setWidth 32)) (complete mark)

/-- `PRE_SET_AHB` (45 R161). -/
def execPreSetAhb (mark : Mark) (s : State) : Result :=
  .next (setPrescaler s s.params.regs.hpre (·.hpre) mark)

/-- `PRE_SET_APB1` (45 R162). -/
def execPreSetApb1 (mark : Mark) (s : State) : Result :=
  .next (setPrescaler s s.params.regs.ppre1 (·.ppre1) mark)

/-- `PRE_SET_APB2` (45 R163). -/
def execPreSetApb2 (mark : Mark) (s : State) : Result :=
  .next (setPrescaler s s.params.regs.ppre2 (·.ppre2) mark)

end Sys2Proof.Machine
end

