-- ==== Sys2Proof/Machine/RegisterField.lean ====
section
/-! DEFINITION. The RF family: the six register-field primitives of spec/40_registerfield.md R120 to R127. Each transaction
is one step; a read-modify-write is two (R127, spec/10_state.md R23). A value a primitive returns goes to `returned`. -/

namespace Sys2Proof.Machine

/-- A primitive at an address RegMap names; any other breaks the precondition of 20 R66 and R67. -/
def atNamed (s : State) (a : Addr) (k : State) : Result :=
  if named s.params.regs a then .next k else .fault (.noSuchRegister a)

/-- The end of a read-modify-write primitive: no copy of the word is kept (40 R127). -/
def endPrimitive (s : State) : State := { s with cto := { s.cto with ph := false, tmp := none } }

/-- `RF_READ a` (40 R120). -/
def execRfRead (a : Addr) (s : State) : Result :=
  atNamed s a (reply (afterRead s .plain a) (readValue s .plain a))

/-- `RF_WRITE a, v` (40 R121). -/
def execRfWrite (a : Addr) (v : Word) (s : State) : Result :=
  atNamed s a (afterWrite s a v)

/-- `RF_SET_BITS a, k` (40 R122). -/
def execRfSetBits (a : Addr) (k : Word) (s : State) : Result :=
  atNamed s a (rmw s a (fun t => setBits t k) endPrimitive)

/-- `RF_CLEAR_BITS a, k` (40 R123). -/
def execRfClearBits (a : Addr) (k : Word) (s : State) : Result :=
  atNamed s a (rmw s a (fun t => clearBits t k) endPrimitive)

/-- `RF_TEST a, k` (40 R124); the truth value is returned as 1 or 0. -/
def execRfTest (a : Addr) (k : Word) (s : State) : Result :=
  atNamed s a (reply (afterRead s .plain a) (if testBits (readValue s .plain a) k then 1 else 0))

/-- `RF_MASKED_UPDATE a, m, s, v` (40 R125). -/
def execRfMaskedUpdate (a : Addr) (m : Word) (sh v : Nat) (s : State) : Result :=
  atNamed s a (rmw s a (fun t => maskedUpdate t m sh v) endPrimitive)

end Sys2Proof.Machine
end

