-- ==== Sys2Proof/Machine/Voltage.lean ====
section
/-! DEFINITION. The VOS family: spec/43_voltage.md R150. -/

namespace Sys2Proof.Machine

/-- `VOS_SET_SCALE` (43 R150). -/
def execVosSetScale (mark : Mark) (s : State) : Result :=
  .next (withProfile s fun p =>
    rmw s s.params.regs.pwrAddr (fun t => fieldUpdate s.params.regs.vos t (vosCode s.params.regs p)) (complete mark))

end Sys2Proof.Machine
end

