-- ==== Sys2Proof/Machine/Dispatch.lean ====
section
/-! DEFINITION. One arm per instruction, each a direct call of its meaning. -/

namespace Sys2Proof.Machine

def exec (i : Instr) (s : State) : Host.Outcome State Fault Refusal :=
  match i with
  | .oscEnable src mark => Sys2Proof.Machine.execOscEnable src mark s
  | .oscDisable src mark => Sys2Proof.Machine.execOscDisable src mark s
  | .oscWaitReady src mark => Sys2Proof.Machine.execOscWaitReady src mark s
  | .oscIsReady src mark => Sys2Proof.Machine.execOscIsReady src mark s
  | .swSelect src mark => Sys2Proof.Machine.execSwSelect src mark s
  | .swWait src mark => Sys2Proof.Machine.execSwWait src mark s
  | .profLookup mark => Sys2Proof.Machine.execProfLookup mark s
  | .vosSetScale mark => Sys2Proof.Machine.execVosSetScale mark s
  | .preSetAhb mark => Sys2Proof.Machine.execPreSetAhb mark s
  | .preSetApb1 mark => Sys2Proof.Machine.execPreSetApb1 mark s
  | .preSetApb2 mark => Sys2Proof.Machine.execPreSetApb2 mark s
  | .pllConfigure mark => Sys2Proof.Machine.execPllConfigure mark s
  | .flashSetWs ic dc mark => Sys2Proof.Machine.execFlashSetWs ic dc mark s
  | .freqPublish mark => Sys2Proof.Machine.execFreqPublish mark s
  | .uEnd mark => Sys2Proof.Machine.execEnd mark s
  | .nop => Sys2Proof.Machine.execNop s
  | .configure crystal target rsvLo rsvHi => Sys2Proof.Machine.execConfigure crystal target rsvLo rsvHi s
  | .cmdReserved2 => Sys2Proof.Machine.execCmdReserved2 s
  | .cmdReserved3 => Sys2Proof.Machine.execCmdReserved3 s
  | .cmdReserved4 => Sys2Proof.Machine.execCmdReserved4 s
  | .cmdReserved5 => Sys2Proof.Machine.execCmdReserved5 s
  | .cmdReserved6 => Sys2Proof.Machine.execCmdReserved6 s
  | .cmdReserved7 => Sys2Proof.Machine.execCmdReserved7 s
  | .cmdReserved8 => Sys2Proof.Machine.execCmdReserved8 s
  | .cmdReserved9 => Sys2Proof.Machine.execCmdReserved9 s
  | .cmdReserved10 => Sys2Proof.Machine.execCmdReserved10 s
  | .cmdReserved11 => Sys2Proof.Machine.execCmdReserved11 s
  | .cmdReserved12 => Sys2Proof.Machine.execCmdReserved12 s
  | .cmdReserved13 => Sys2Proof.Machine.execCmdReserved13 s
  | .cmdReserved14 => Sys2Proof.Machine.execCmdReserved14 s
  | .cmdReserved15 => Sys2Proof.Machine.execCmdReserved15 s
  | .rdStatus => Sys2Proof.Machine.execRdStatus s
  | .rdArgs => Sys2Proof.Machine.execRdArgs s
  | .rdPollLimit => Sys2Proof.Machine.execRdPollLimit s
  | .wrPollLimit w => Sys2Proof.Machine.execWrPollLimit w s
  | .qAhbHz => Sys2Proof.Machine.execQAhbHz s
  | .qApb1Hz => Sys2Proof.Machine.execQApb1Hz s
  | .qApb2Hz => Sys2Proof.Machine.execQApb2Hz s
  | .qAhbMs => Sys2Proof.Machine.execQAhbMs s
  | .qAhbUs => Sys2Proof.Machine.execQAhbUs s
  | .qApb1Ms => Sys2Proof.Machine.execQApb1Ms s
  | .qApb1Us => Sys2Proof.Machine.execQApb1Us s
  | .qApb2Ms => Sys2Proof.Machine.execQApb2Ms s
  | .qApb2Us => Sys2Proof.Machine.execQApb2Us s
  | .rfRead a => Sys2Proof.Machine.execRfRead a s
  | .rfWrite a v => Sys2Proof.Machine.execRfWrite a v s
  | .rfSetBits a k => Sys2Proof.Machine.execRfSetBits a k s
  | .rfClearBits a k => Sys2Proof.Machine.execRfClearBits a k s
  | .rfTest a k => Sys2Proof.Machine.execRfTest a k s
  | .rfMaskedUpdate a m sh v => Sys2Proof.Machine.execRfMaskedUpdate a m sh v s

end Sys2Proof.Machine
end

