-- ==== Sys2Proof/Machine/Schedule.lean ====
section
/-! DEFINITION. The turns of the agents (spec/00_scope.md R14): the sequencer's step (spec/47_orchestrator.md R180), the host's
access (spec/20_memory.md R62, spec/48_host.md R200, R216), reset and foreign writes; and placing a word to be fetched. -/

namespace Sys2Proof.Machine

/-- The fetch: `UROM[upc]` (47 R180, 20 R77). -/
def fetch (s : State) : MicroWord := s.urom.get s.cto.upc.toFin

/-- The sequencer's step, if it has one; the word is fetched and decoded at every step (47 R180). A sequencer without a
step leaves everything as it is (60 R234). -/
def sequencerTurn (s : State) : Result :=
  if s.cto.running then
    match decodeU s.params.codes.sw (fetch s) with
    | .ok i => exec i s
    | .error _ => .next (raise .illegalUop s)
  else .next s

/-- The host port's address decoder: an aligned 32-bit access of one of the sixteen registers from HOST_BASE on, by address
bits 5:2; nothing else exists on this port (20 R62, 10 R46). Alignment is that of the offset (DESIGN CHOICE, log entry 29). -/
def hostEncoding (base : Nat) (a : HostAccess) : Option Encoding :=
  if a.bytes = 4 ∧ base ≤ a.addr ∧ a.addr < base + 64 ∧ (a.addr - base) % 4 = 0 then
    let reg := BitVec.ofNat 4 ((a.addr - base) / 4)
    some (if a.we then .hostWrite reg a.data else .hostRead reg)
  else none

/-- One host access (48 R200): a command, an accessor or another register; a read of CMD or of a reserved offset returns 0
and a write of a read-only register is ignored (48 R216). -/
def hostTurn (a : HostAccess) (s : State) : Result :=
  match hostEncoding s.params.hostBase a with
  | none => .refused .hostAccessForm
  | some e =>
    match decode s.params.codes.sw e with
    | .ok i => exec i s
    | .error .readsZero => .next (reply s 0)
    | .error _ => .next s

/-- A write by another bus master: outside a run an ordinary change of storage, not in the trace; no such move during a run
(20 R79, R80, 93 U7). -/
def foreignTurn (a : Addr) (v : Word) (s : State) : Result :=
  if s.cto.busy then .refused .foreignWriteDuringRun
  else if named s.params.regs a then .next { s with mem := s.mem.write s.params.regs a v }
  else .fault (.noSuchRegister a)

/-- One turn of the named agent. -/
def runTurn (t : Turn) (s : State) : Result :=
  match t with
  | .sequencer => sequencerTurn s
  | .host a => hostTurn a s
  | .reset => .next (resetCto s)
  | .foreignWrite a v => foreignTurn a v s

/-- The next turn: the first of the agenda, or the sequencer's. A configuration that is not admitted is refused (00 R9, log entry 28). -/
def turn (s : State) : Result :=
  if paramsWf s.params then
    match s.agenda with
    | [] => sequencerTurn s
    | t :: rest => runTurn t { s with agenda := rest }
  else .refused .badConfiguration

/-- The host access that carries a decoded-table encoding, if it is one of the host's. -/
def hostAccessOf (base : Nat) : Encoding → Option HostAccess
  | .command w => some ⟨true, base, 4, w⟩
  | .hostRead reg => some ⟨false, base + 4 * reg.toNat, 4, 0⟩
  | .hostWrite reg w => some ⟨true, base + 4 * reg.toNat, 4, w⟩
  | .micro _ => none
  | .bus _ => none

/-- Place an encoding where the next step takes its instruction from: a micro-word into the micro-ROM at `upc`, with a run in
progress and the sequencer's turn first; a host access as the first turn (log entry 14). -/
def placeEncoding (s : State) (e : Encoding) : State :=
  match e, hostAccessOf s.params.hostBase e with
  | .micro w, _ =>
    { s with
      urom := s.urom.set s.cto.upc.toNat w s.cto.upc.isLt
      cto := { s.cto with busy := true, fault := false }
      agenda := .sequencer :: s.agenda }
  | _, some a => { s with agenda := .host a :: s.agenda }
  | _, none => s

/-- `placeEncoding` for a word as the opcode table numbers it. -/
def placeTableWord (s : State) (nbits w : Nat) : State :=
  match tableEncoding nbits w with
  | none => s
  | some e => placeEncoding s e

end Sys2Proof.Machine
end

