-- ==== Sys2Proof/Machine/Step.lean ====
section
/-! DEFINITION. One step of the machine, and placing the word the next step runs. -/

namespace Sys2Proof.Machine

/-- One step: one turn of one agent (spec/00_scope.md R14). -/
def step (s : State) : Host.Outcome State Fault Refusal := turn s

/-- `s` with the table's word placed where the next step takes its instruction from. -/
def State.withFetchWord (s : State) (nbits w : Nat) : State := placeTableWord s nbits w

end Sys2Proof.Machine
end

