-- ==== Sys2Proof/Machine/Assembly.lean ====
section
/-! DEFINITION. The assembler syntax and pseudo-instructions of spec/30_encoding.md R105, R106, and the hard-wired view of the
sequence (spec/47_orchestrator.md R184). No step uses them: they are the spec's other ways to write the same words. -/

namespace Sys2Proof.Machine

/-- The name of a clock source (30 R105). -/
def ClockSource.name : ClockSource → String
  | .hsi => "HSI"
  | .hse => "HSE"
  | .pll => "PLL"
  | .pllsai => "PLLSAI"
  | .plli2s => "PLLI2S"
  | .lse => "LSE"
  | .lsi => "LSI"

/-- The name of a state (10 R21). -/
def OState.name : OState → String
  | .idle => "Idle"
  | .hsiEnabled => "HsiEnabled"
  | .hsiSelected => "HsiSelected"
  | .hseEnabled => "HseEnabled"
  | .hseReady => "HseReady"
  | .voltageConfigured => "VoltageConfigured"
  | .prescalersConfigured => "PrescalersConfigured"
  | .pllConfigured => "PllConfigured"
  | .pllEnabled => "PllEnabled"
  | .pllReady => "PllReady"
  | .flashConfigured => "FlashConfigured"
  | .pllSelected => "PllSelected"
  | .frequenciesPublished => "FrequenciesPublished"
  | .hsiDisabled => "HsiDisabled"

/-- `-> StateName`, or nothing for mark 15 (30 R105). -/
def Mark.asm : Mark → String
  | .enter st => " -> " ++ OState.name st
  | .keep => ""

/-- A micro-word, host command or query as the spec writes it (30 R105); none for what R105 gives no syntax. -/
def asm : Instr → Option String
  | .oscEnable s m => some ("OSC_ENABLE " ++ ClockSource.name s ++ Mark.asm m)
  | .oscDisable s m => some ("OSC_DISABLE " ++ ClockSource.name s ++ Mark.asm m)
  | .oscWaitReady s m => some ("OSC_WAIT_READY " ++ ClockSource.name s ++ Mark.asm m)
  | .oscIsReady s m => some ("OSC_IS_READY " ++ ClockSource.name s ++ Mark.asm m)
  | .swSelect s m => some ("SW_SELECT " ++ ClockSource.name s ++ Mark.asm m)
  | .swWait s m => some ("SW_WAIT " ++ ClockSource.name s ++ Mark.asm m)
  | .profLookup m => some ("PROF_LOOKUP" ++ Mark.asm m)
  | .vosSetScale m => some ("VOS_SET_SCALE" ++ Mark.asm m)
  | .preSetAhb m => some ("PRE_SET_AHB" ++ Mark.asm m)
  | .preSetApb1 m => some ("PRE_SET_APB1" ++ Mark.asm m)
  | .preSetApb2 m => some ("PRE_SET_APB2" ++ Mark.asm m)
  | .pllConfigure m => some ("PLL_CONFIGURE" ++ Mark.asm m)
  | .flashSetWs ic dc m =>
    some ("FLASH_SET_WS" ++ (if ic then " ic" else "") ++ (if dc then " dc" else "") ++ Mark.asm m)
  | .freqPublish m => some ("FREQ_PUBLISH" ++ Mark.asm m)
  | .uEnd m => some ("END" ++ Mark.asm m)
  | .nop => some "NOP"
  | .configure c t 0 0 => some ("CONFIGURE crystal=" ++ toString c.toNat ++ " target=" ++ toString t.toNat)
  | .qAhbHz => some "Q_AHB_HZ"
  | .qApb1Hz => some "Q_APB1_HZ"
  | .qApb2Hz => some "Q_APB2_HZ"
  | .qAhbMs => some "Q_AHB_MS"
  | .qAhbUs => some "Q_AHB_US"
  | .qApb1Ms => some "Q_APB1_MS"
  | .qApb1Us => some "Q_APB1_US"
  | .qApb2Ms => some "Q_APB2_MS"
  | .qApb2Us => some "Q_APB2_US"
  | _ => none

/-- `OSC_START src -> S` (30 R106). -/
def oscStart (src : ClockSource) (m : Mark) : List Instr := [.oscEnable src .keep, .oscWaitReady src m]

/-- `SET_PRESCALERS -> S` (30 R106). -/
def setPrescalers (m : Mark) : List Instr := [.preSetAhb .keep, .preSetApb1 .keep, .preSetApb2 m]

/-- `SWITCH_TO src -> S` (30 R106). -/
def switchTo (src : ClockSource) (m : Mark) : List Instr := [.swSelect src .keep, .swWait src m]

/-- The actions performed from each state before the next is entered, as the micro-operations that perform them (47 R184). -/
def actionsFrom : OState → List Instr
  | .idle => [.oscEnable .hsi (.enter .hsiEnabled)]
  | .hsiEnabled => [.oscWaitReady .hsi .keep, .swSelect .hsi (.enter .hsiSelected)]
  | .hsiSelected => [.oscEnable .hse (.enter .hseEnabled)]
  | .hseEnabled => [.oscWaitReady .hse (.enter .hseReady)]
  | .hseReady => [.profLookup .keep, .vosSetScale (.enter .voltageConfigured)]
  | .voltageConfigured => [.preSetAhb .keep, .preSetApb1 .keep, .preSetApb2 (.enter .prescalersConfigured)]
  | .prescalersConfigured => [.pllConfigure (.enter .pllConfigured)]
  | .pllConfigured => [.oscEnable .pll (.enter .pllEnabled)]
  | .pllEnabled => [.oscWaitReady .pll (.enter .pllReady)]
  | .pllReady => [.flashSetWs true true (.enter .flashConfigured)]
  | .flashConfigured => [.swSelect .pll .keep, .swWait .pll (.enter .pllSelected)]
  | .pllSelected => [.freqPublish (.enter .frequenciesPublished)]
  | .frequenciesPublished => [.oscDisable .hsi (.enter .hsiDisabled)]
  | .hsiDisabled => [.uEnd .keep]

/-- The fourteen states in order (10 R21). -/
def allStates : List OState :=
  [.idle, .hsiEnabled, .hsiSelected, .hseEnabled, .hseReady, .voltageConfigured, .prescalersConfigured, .pllConfigured,
   .pllEnabled, .pllReady, .flashConfigured, .pllSelected, .frequenciesPublished, .hsiDisabled]

/-- The state held while the micro-operation at a ROM index is executed (47 R182). -/
def stateAtWord (k : Nat) : OState :=
  ((allStates.flatMap fun st => (actionsFrom st).map fun _ => st)[k]?).getD .hsiDisabled

end Sys2Proof.Machine
end

