-- ==== Sys2Proof/Safety.lean ====
section
/-! DEFINITION. What counts as a safe machine and a safe run, in the terms claims use: the invariants of spec/10_state.md R50,
the facts that hold with the fixed micro-ROM (spec/47_orchestrator.md R182, R183), the ends of a run (R194), and the named
premises of spec/93_implementation_defined.md part 2. -/

namespace Sys2Proof.Safety

open Sys2Proof.Machine

/-- The invariants of the CTO's own state (10 R50), and that `tmp` is held exactly between the two halves of a
micro-operation (R23) and operands are held once latched (R24). -/
structure CtoInv (c : Cto) : Prop where
  fault_busy : c.fault = true → c.busy = true
  done_idle : c.done = true → c.busy = false
  idle_clear : c.busy = false → c.ph = false ∧ c.upc = 0 ∧ c.pollcnt = 0
  no_fault_codes : c.fault = false → c.faultCode = 0 ∧ c.faultSrc = 0
  busy_args : c.busy = true → c.argsValid = true
  phase_tmp : c.tmp.isSome = c.ph
  args_held : c.argsValid = true → c.crystal.isSome = true ∧ c.target.isSome = true
  bank_derived : c.bank = Bank.ofHz c.bank.ahbHz c.bank.apb1Hz c.bank.apb2Hz

/-- The invariant of the machine: R50, the canonical form of memory, latched operands inside the enumerations (R24) and a
latched profile that is the table's entry and executable (R25, 47 R185). -/
structure Inv (s : State) : Prop where
  cto : CtoInv s.cto
  mem : Memory.wf s.mem = true
  operands : s.cto.argsValid = true →
    s.cto.crystalCode.toNat < s.params.ncrystal ∧ s.cto.targetCode.toNat < s.params.ntarget
  profile : ∀ p, s.cto.prof = some p → p = selectedProfile s ∧ badProfile s.params.codes p = false

/-- What holds besides with the fixed micro-ROM and codes for the two sources it switches to: `state` names the last
completed action (47 R182), the profile is latched before its first reader (10 R25), a completed run has published
(20 R75), and the faults IllegalUop and NoProfile do not occur (60 R221). -/
structure RomInv (s : State) : Prop where
  fixed : s.urom = rom
  switchable : s.params.codes.sw.hsi.isSome = true ∧ s.params.codes.sw.pll.isSome = true
  progress : s.cto.busy = true → s.cto.upc.toNat ≤ 18 ∧ s.cto.state = stateAtWord s.cto.upc.toNat
  latched : s.cto.busy = true → 5 < s.cto.upc.toNat → s.cto.prof.isSome = true
  finished : s.cto.done = true → s.cto.state = .hsiDisabled ∧ s.cto.prof.isSome = true
  published : s.cto.done = true ∨ (s.cto.busy = true ∧ 16 < s.cto.upc.toNat) →
    ∀ p, s.cto.prof = some p → s.cto.bank = publishedBank s.params s.cto.crystalCode p
  causes : s.cto.faultCode ≠ FaultCause.code .illegalUop ∧ s.cto.faultCode ≠ FaultCause.code .noProfile

/-- A run has completed (47 R194). -/
def completed (s : State) : Bool := s.cto.done

/-- A run has faulted (47 R194). -/
def faulted (s : State) : Bool := s.cto.fault

/-- A run has not ended (47 R194): it still has steps, or it hangs. -/
def notEnded (s : State) : Bool := s.cto.busy && !s.cto.fault

/-- The premise NoForeignWrites (20 R79) on the turns to come: no other master writes. -/
def noForeignWrites (s : State) : Bool := s.agenda.all fun t => match t with | .foreignWrite .. => false | _ => true

/-- Only the sequencer moves from here on. -/
def sequencerOnly (s : State) : Bool := s.agenda.isEmpty

/-- The ordering of a trace in the order of the micro-ROM (47 R192): no transaction stands after one of a later word. -/
def inRomOrder (l : List Txn) : Prop := l.Pairwise fun x y => x.upc.toNat ≤ y.upc.toNat

end Sys2Proof.Safety
end

