-- ==== Sys2Proof/Certificates/Slice0/Obligations.lean ====
section
/-! DEFINITION. The statements for the provers. Each docstring names the rule of the spec it formalises. -/

namespace Sys2Proof.Claims

open Sys2Proof Sys2Proof.Machine Sys2Proof.Safety

/-! ## Words the statements share -/

/-- No byte of the external registers changed. -/
def SameBytes (s t : State) : Prop := ∀ n, t.mem.byte n = s.mem.byte n

/-- No byte outside the word at `a` changed. -/
def SameBytesOutside (s t : State) (a : Addr) : Prop :=
  ∀ n, (n < a.toNat ∨ a.toNat + 4 ≤ n) → t.mem.byte n = s.mem.byte n

/-- The read-only stores, the turns to come and the values returned are as before. -/
def SameRest (s t : State) : Prop :=
  t.params = s.params ∧ t.urom = s.urom ∧ t.agenda = s.agenda ∧ t.returned = s.returned

/-- Bit `b` of the word at `a` is a storage bit (20 R68). -/
def StorageBit (s : State) (a : Addr) (b : Nat) : Prop := (statusMask s.params.regs a).getLsbD b = false

/-- `Complete(mark)` as 47 R181 writes it, from the CTO `c`. -/
def completed (c : Cto) (m : Mark) : Cto :=
  { c with
    state := match m with
      | .enter st => st
      | .keep => c.state
    ph := false
    tmp := none
    pollcnt := 0
    upc := c.upc + 1 }

/-- The CTO `c` after `raise` with a code and a source (60 R224). -/
def faultedWith (c : Cto) (code : BitVec 4) (src : BitVec 3) : Cto :=
  { c with fault := true, faultCode := code, faultSrc := src }

/-- From `s` to `t`: one read of `a` for the purpose `why`, which returned `readValue s why a`; the CTO is then `c`; no byte
and nothing else changed, but for the environment, which has given one answer. -/
def OneRead (s t : State) (why : Purpose) (a : Addr) (c : Cto) : Prop :=
  t.cto = c ∧ t.trace = s.trace ++ [⟨s.cto.upc, false, a, readValue s why a⟩] ∧ SameBytes s t ∧ SameRest s t ∧
  t.draws = s.draws + 1 ∧ t.env = s.env.advance

/-- From `s` to `t`: one write of `v` to `a`, taken by every storage bit of that word and by no status bit; no byte outside
the word and nothing else changed; the CTO is then `c`. -/
def OneWrite (s t : State) (a : Addr) (v : Word) (c : Cto) : Prop :=
  t.cto = c ∧ t.trace = s.trace ++ [⟨s.cto.upc, true, a, v⟩] ∧
  (∀ b, StorageBit s a b → (t.mem.word a).getLsbD b = v.getLsbD b) ∧
  (∀ b, ¬ StorageBit s a b → (t.mem.word a).getLsbD b = (s.mem.word a).getLsbD b) ∧
  SameBytesOutside s t a ∧ SameRest s t ∧ t.draws = s.draws ∧ t.env = s.env

/-- The CTO between the two halves of a read-modify-write of `a` (10 R23). -/
def betweenHalves (s : State) (a : Addr) : Cto := { s.cto with ph := true, tmp := some (readValue s .plain a) }

/-- Two steps of `i` from `s`: a read of `a`, then a write of `f` of the word read, then completion with `m`; `u` is the state
after both. -/
def ReadThenWrite (i : Instr) (s u : State) (a : Addr) (f : Word → Word) (m : Mark) : Prop :=
  ∃ t, exec i s = .next t ∧ OneRead s t .plain a (betweenHalves s a) ∧
    exec i t = .next u ∧ OneWrite t u a (f (readValue s .plain a)) (completed s.cto m)

/-- Between `s` and `u` the field `f` of the word at `a` took the value `v` truncated to it, and no other bit changed. -/
def OnlyFieldWritten (s u : State) (a : Addr) (f : Field) (v : Word) : Prop :=
  f.get (u.mem.word a) = v &&& f.mask ∧
  ∀ b, (b < f.shift ∨ f.shift + f.width ≤ b) → (u.mem.word a).getLsbD b = (s.mem.word a).getLsbD b

/-- `masked_update` of a field as 40 R125 writes it. -/
def updated (f : Field) (v t : Word) : Word := (t &&& ~~~(f.mask <<< f.shift)) ||| ((v &&& f.mask) <<< f.shift)

/-- A state the statements about micro-operations start from: canonical memory, an admitted configuration. -/
def Sound (s : State) : Prop := Memory.wf s.mem = true ∧ paramsWf s.params = true

/-- The next turn is the sequencer's (00 R14; log entry 4 for the empty list). -/
def SequencersTurn (s : State) : Prop := s.agenda.head? = none ∨ s.agenda.head? = some .sequencer

/-- `n` executions of one instruction, each of which answers a next state. -/
def execTimes (i : Instr) : Nat → State → State → Prop
  | 0, s, t => t = s
  | n + 1, s, t => ∃ r, exec i s = .next r ∧ execTimes i n r t

/-- The bytes and the rest of the machine are as before, the CTO is `c`, one value was returned. -/
def Returned (s t : State) (v : Word) : Prop := t = { s with returned := s.returned ++ [v] }

end Sys2Proof.Claims

open Sys2Proof Sys2Proof.Machine Sys2Proof.Safety Sys2Proof.Claims

/-! ## The oscillator family -/

/-- 41 R131: OSC_ENABLE reads the enable word, writes it with the enable bit set, completes; the bit is then 1 and no other
bit of any word changed. -/
def Obligations.OscEnableSetsTheEnableBit : Prop :=
  ∀ (s : State) (src : ClockSource) (m : Mark), Sound s → s.cto.ph = false →
    ∃ u, ReadThenWrite (.oscEnable src m) s u (s.params.regs.en.get src).addr
        (fun t => t ||| (1#32 <<< (s.params.regs.en.get src).bit)) m ∧
      (u.mem.word (s.params.regs.en.get src).addr).getLsbD (s.params.regs.en.get src).bit = true ∧
      ∀ b, b ≠ (s.params.regs.en.get src).bit →
        (u.mem.word (s.params.regs.en.get src).addr).getLsbD b = (s.mem.word (s.params.regs.en.get src).addr).getLsbD b

/-- 41 R132: OSC_DISABLE clears the enable bit and no other. -/
def Obligations.OscDisableClearsTheEnableBit : Prop :=
  ∀ (s : State) (src : ClockSource) (m : Mark), Sound s → s.cto.ph = false →
    ∃ u, ReadThenWrite (.oscDisable src m) s u (s.params.regs.en.get src).addr
        (fun t => t &&& ~~~(1#32 <<< (s.params.regs.en.get src).bit)) m ∧
      (u.mem.word (s.params.regs.en.get src).addr).getLsbD (s.params.regs.en.get src).bit = false ∧
      ∀ b, b ≠ (s.params.regs.en.get src).bit →
        (u.mem.word (s.params.regs.en.get src).addr).getLsbD b = (s.mem.word (s.params.regs.en.get src).addr).getLsbD b

/-- 41 R133, one poll of OSC_WAIT_READY: it completes if the ready bit reads 1; else it counts, and faults when the count
reaches a nonzero limit. -/
def Obligations.OscWaitReadyPolls : Prop :=
  ∀ (s : State) (src : ClockSource) (m : Mark), paramsWf s.params = true →
    ∃ t, exec (.oscWaitReady src m) s = .next t ∧
      OneRead s t (.pollReady src) (s.params.regs.rdy.get src).addr
        (if (readValue s (.pollReady src) (s.params.regs.rdy.get src).addr).getLsbD (s.params.regs.rdy.get src).bit = true
         then Claims.completed s.cto m
         else if s.cto.limit ≠ 0 ∧ s.cto.pollcnt + 1 = s.cto.limit
         then faultedWith { s.cto with pollcnt := s.cto.pollcnt + 1 } 1 src.code
         else { s.cto with pollcnt := s.cto.pollcnt + 1 })

/-- 41 R134: OSC_IS_READY makes one read, writes `rdy` with the ready bit it read, and completes. -/
def Obligations.OscIsReadyWritesRdy : Prop :=
  ∀ (s : State) (src : ClockSource) (m : Mark), paramsWf s.params = true →
    ∃ t, exec (.oscIsReady src m) s = .next t ∧
      OneRead s t .plain (s.params.regs.rdy.get src).addr
        (Claims.completed { s.cto with
          rdy := (readValue s .plain (s.params.regs.rdy.get src).addr).getLsbD (s.params.regs.rdy.get src).bit } m)

/-- 60 R236 and 20 R70: under EnvStuck(src) a wait with limit N > 0 makes exactly N polls; the first N - 1 only count, the
N-th raises OscillatorTimeout(src). -/
def Obligations.OscWaitTimesOutAtTheLimit : Prop :=
  ∀ (s : State) (src : ClockSource) (m : Mark) (k : Nat), paramsWf s.params = true → s.env = .stuck src →
    s.cto.pollcnt = 0 → s.cto.limit ≠ 0 → k ≤ s.cto.limit.toNat →
    ∃ t, execTimes (.oscWaitReady src m) k s t ∧
      t.trace = s.trace ++ List.replicate k ⟨s.cto.upc, false, (s.params.regs.rdy.get src).addr,
        readValue s (.pollReady src) (s.params.regs.rdy.get src).addr⟩ ∧
      t.cto = if k = s.cto.limit.toNat then faultedWith { s.cto with pollcnt := s.cto.limit } 1 src.code
        else { s.cto with pollcnt := BitVec.ofNat 32 k }

/-- 60 R226: with limit 0 a wait whose ready bit never reads 1 polls for ever: after any number of steps of the machine only
`pollcnt`, the trace and the model's own count of draws (log entry 2) have moved. -/
def Obligations.OscWaitHangsWithoutLimit : Prop :=
  ∀ (s : State) (src : ClockSource) (m : Mark) (n : Nat), paramsWf s.params = true → s.agenda = [] →
    s.env = .stuck src → s.cto.busy = true → s.cto.fault = false → s.cto.limit = 0 →
    decodeU s.params.codes.sw (fetch s) = .ok (.oscWaitReady src m) →
    ∃ t, Host.Core.run core n s = .next t ∧
      t.cto = { s.cto with pollcnt := s.cto.pollcnt + BitVec.ofNat 32 n } ∧ SameBytes s t ∧
      t.trace = s.trace ++ List.replicate n ⟨s.cto.upc, false, (s.params.regs.rdy.get src).addr,
        readValue s (.pollReady src) (s.params.regs.rdy.get src).addr⟩ ∧
      SameRest s t ∧ t.env = s.env ∧ t.draws = s.draws + n

/-- 20 R70: under EnvNominal the wait for an enabled source succeeds at its first poll. -/
def Obligations.NominalWaitSucceedsAtOnce : Prop :=
  ∀ (s : State) (src : ClockSource) (m : Mark), paramsWf s.params = true → s.env = .nominal →
    storedBit s.mem (s.params.regs.en.get src) = true →
    ∃ t, exec (.oscWaitReady src m) s = .next t ∧ t.cto = Claims.completed s.cto m

/-! ## The clock switch -/

/-- 46 R171: SW_SELECT writes the source-select field with the source's code and nothing else. -/
def Obligations.SwSelectWritesTheSelectField : Prop :=
  ∀ (s : State) (src : ClockSource) (m : Mark) (c : Word), Sound s → s.cto.ph = false →
    s.params.codes.sw.get src = some c →
    ∃ u, ReadThenWrite (.swSelect src m) s u s.params.regs.cfgAddr (updated s.params.regs.sw c) m ∧
      OnlyFieldWritten s u s.params.regs.cfgAddr s.params.regs.sw c

/-- 46 R172, one poll of SW_WAIT. -/
def Obligations.SwWaitPolls : Prop :=
  ∀ (s : State) (src : ClockSource) (m : Mark) (c : Word), s.params.codes.sw.get src = some c →
    ∃ t, exec (.swWait src m) s = .next t ∧
      OneRead s t .pollSwitch s.params.regs.cfgAddr
        (if (readValue s .pollSwitch s.params.regs.cfgAddr >>> s.params.regs.sws.shift) &&& s.params.regs.sws.mask =
            c &&& s.params.regs.sws.mask
         then Claims.completed s.cto m
         else if s.cto.limit ≠ 0 ∧ s.cto.pollcnt + 1 = s.cto.limit
         then faultedWith { s.cto with pollcnt := s.cto.pollcnt + 1 } 2 src.code
         else { s.cto with pollcnt := s.cto.pollcnt + 1 })

/-- 46 R170: selecting or awaiting a source without a SYSCLK code faults with IllegalUop before any transaction. -/
def Obligations.UnselectableSourceFaults : Prop :=
  ∀ (s : State) (src : ClockSource) (m : Mark), s.params.codes.sw.get src = none →
    exec (.swSelect src m) s = .next { s with cto := faultedWith s.cto 4 0 } ∧
    exec (.swWait src m) s = .next { s with cto := faultedWith s.cto 4 0 }

/-! ## Voltage, prescalers, flash -/

/-- 43 R150: VOS_SET_SCALE writes the voltage field with the code for the profile's power_save and nothing else. -/
def Obligations.VosSetScaleWritesTheRange : Prop :=
  ∀ (s : State) (m : Mark) (p : ClockScaleProfile), Sound s → s.cto.ph = false → s.cto.prof = some p →
    ∃ u, ReadThenWrite (.vosSetScale m) s u s.params.regs.pwrAddr
        (updated s.params.regs.vos (if p.powerSave then s.params.regs.vosLow else s.params.regs.vosHigh)) m ∧
      OnlyFieldWritten s u s.params.regs.pwrAddr s.params.regs.vos
        (if p.powerSave then s.params.regs.vosLow else s.params.regs.vosHigh)

/-- 45 R160 to R163: each prescaler operation writes its own field with its code of the profile and nothing else. -/
def Obligations.PrescalersWriteTheirFields : Prop :=
  ∀ (s : State) (m : Mark) (p : ClockScaleProfile), Sound s → s.cto.ph = false → s.cto.prof = some p →
    (∃ u, ReadThenWrite (.preSetAhb m) s u s.params.regs.cfgAddr (updated s.params.regs.hpre (p.hpre.setWidth 32)) m ∧
      OnlyFieldWritten s u s.params.regs.cfgAddr s.params.regs.hpre (p.hpre.setWidth 32)) ∧
    (∃ u, ReadThenWrite (.preSetApb1 m) s u s.params.regs.cfgAddr (updated s.params.regs.ppre1 (p.ppre1.setWidth 32)) m ∧
      OnlyFieldWritten s u s.params.regs.cfgAddr s.params.regs.ppre1 (p.ppre1.setWidth 32)) ∧
    (∃ u, ReadThenWrite (.preSetApb2 m) s u s.params.regs.cfgAddr (updated s.params.regs.ppre2 (p.ppre2.setWidth 32)) m ∧
      OnlyFieldWritten s u s.params.regs.cfgAddr s.params.regs.ppre2 (p.ppre2.setWidth 32))

/-- 44 R155: FLASH_SET_WS writes the latency and both cache enables in one write; every other bit, the prefetch enable
among them, is as before. -/
def Obligations.FlashSetWsWritesTogether : Prop :=
  ∀ (s : State) (ic dc : Bool) (m : Mark) (p : ClockScaleProfile), Sound s → s.cto.ph = false → s.cto.prof = some p →
    ∃ u, ReadThenWrite (.flashSetWs ic dc m) s u s.params.regs.flashAddr
        (fun t => (t &&& ~~~(s.params.regs.latency.smask ||| (1#32 <<< s.params.regs.icen) ||| (1#32 <<< s.params.regs.dcen)))
          ||| ((p.flashWaitStates.setWidth 32 &&& s.params.regs.latency.mask) <<< s.params.regs.latency.shift)
          ||| ((BitVec.ofBool ic).setWidth 32 <<< s.params.regs.icen)
          ||| ((BitVec.ofBool dc).setWidth 32 <<< s.params.regs.dcen)) m ∧
      s.params.regs.latency.get (u.mem.word s.params.regs.flashAddr) =
        p.flashWaitStates.setWidth 32 &&& s.params.regs.latency.mask ∧
      (u.mem.word s.params.regs.flashAddr).getLsbD s.params.regs.icen = ic ∧
      (u.mem.word s.params.regs.flashAddr).getLsbD s.params.regs.dcen = dc ∧
      (u.mem.word s.params.regs.flashAddr).getLsbD s.params.regs.prften =
        (s.mem.word s.params.regs.flashAddr).getLsbD s.params.regs.prften ∧
      ∀ b, (b < s.params.regs.latency.shift ∨ s.params.regs.latency.shift + s.params.regs.latency.width ≤ b) →
        b ≠ s.params.regs.icen → b ≠ s.params.regs.dcen →
        (u.mem.word s.params.regs.flashAddr).getLsbD b = (s.mem.word s.params.regs.flashAddr).getLsbD b

/-! ## The PLL -/

/-- 42 R143, 10 R23: with the PLL enable bit clear, PLL_CONFIGURE tests it with one read, which `tmp` keeps while `ph` is 1
(R23, as log entry 13 reads it beside R143), then writes the whole configuration word once, and completes. -/
def Obligations.PllConfigureWritesTheWordOnce : Prop :=
  ∀ (s : State) (m : Mark) (p : ClockScaleProfile), Sound s → s.cto.ph = false → s.cto.prof = some p →
    storedBit s.mem s.params.regs.en.pll = false →
    ∃ t u, exec (.pllConfigure m) s = .next t ∧
      OneRead s t .plain s.params.regs.en.pll.addr (betweenHalves s s.params.regs.en.pll.addr) ∧
      exec (.pllConfigure m) t = .next u ∧
      OneWrite t u s.params.regs.pllcfgAddr (pllWord s.params p) (Claims.completed s.cto m)

/-- 42 R143, 60 R224: with the PLL enable bit set, PLL_CONFIGURE faults with PllRunning after its read; the configuration
word is not written, and `ph`, `tmp` and all the rest of the CTO stay. -/
def Obligations.PllConfigureFaultsWhenEnabled : Prop :=
  ∀ (s : State) (m : Mark) (p : ClockScaleProfile), paramsWf s.params = true → s.cto.ph = false → s.cto.prof = some p →
    storedBit s.mem s.params.regs.en.pll = true →
    ∃ t, exec (.pllConfigure m) s = .next t ∧ OneRead s t .plain s.params.regs.en.pll.addr (faultedWith s.cto 3 2)

/-- 42 R142: the six fields of the PLL configuration word, each truncated to its field, R clamped from below first; every
bit outside the six fields is 0. -/
def Obligations.PllWordHoldsTheSixFields : Prop :=
  ∀ (q : Params) (p : ClockScaleProfile) (c : Word), paramsWf q = true → encP q.codes p.pllp = some c →
    q.regs.pllM.get (pllWord q p) = p.pllm.setWidth 32 &&& q.regs.pllM.mask ∧
    q.regs.pllN.get (pllWord q p) = p.plln.setWidth 32 &&& q.regs.pllN.mask ∧
    q.regs.pllP.get (pllWord q p) = c &&& q.regs.pllP.mask ∧
    q.regs.pllQ.get (pllWord q p) = p.pllq.setWidth 32 &&& q.regs.pllQ.mask ∧
    q.regs.pllR.get (pllWord q p) = BitVec.ofNat 32 (max p.pllr.toNat 2) &&& q.regs.pllR.mask ∧
    q.regs.pllSrc.get (pllWord q p) = q.regs.pllsrcHse &&& q.regs.pllSrc.mask ∧
    ∀ b, (q.regs.pllM.smask ||| q.regs.pllN.smask ||| q.regs.pllP.smask ||| q.regs.pllQ.smask ||| q.regs.pllR.smask |||
      q.regs.pllSrc.smask).getLsbD b = false → (pllWord q p).getLsbD b = false

/-! ## The orchestrator's own micro-operations -/

/-- 47 R185: PROF_LOOKUP latches the table's entry and completes, or raises BadProfile on an entry that cannot be
executed; no transaction. -/
def Obligations.ProfLookupLatchesTheEntry : Prop :=
  ∀ (s : State) (m : Mark) (c t : BitVec 8) (row : List ClockScaleProfile) (p : ClockScaleProfile),
    s.cto.crystal = some c → s.cto.target = some t →
    s.params.profiles[c.toNat]? = some row → row[t.toNat]? = some p →
    exec (.profLookup m) s = .next { s with
      cto :=
      if p.pllm = 0 ∨ p.pllp = 0 ∨ encP s.params.codes p.pllp = none then faultedWith s.cto 5 0
      else Claims.completed { s.cto with prof := some p } m }

/-- 47 R186, R187: FREQ_PUBLISH writes the nine bank registers in one step from the crystal and the profile, truncating the
Hz values only, and changes nothing else but by completing. -/
def Obligations.FreqPublishWritesTheBank : Prop :=
  ∀ (s : State) (m : Mark) (cr : BitVec 8) (p : ClockScaleProfile) (c : Nat),
    s.cto.crystal = some cr → s.params.crystalHz[cr.toNat]? = some c → s.cto.prof = some p →
    p.pllm ≠ 0 → p.pllp ≠ 0 → paramsWf s.params = true →
    ∃ b : Bank, exec (.freqPublish m) s = .next { s with cto := Claims.completed { s.cto with bank := b } m } ∧
      b.ahbHz.toNat = c / p.pllm.toNat * p.plln.toNat / p.pllp.toNat / hpreDiv s.params.codes p.hpre % 2 ^ 32 ∧
      b.apb1Hz.toNat = c / p.pllm.toNat * p.plln.toNat / p.pllp.toNat / hpreDiv s.params.codes p.hpre /
        ppreDiv s.params.codes p.ppre1 % 2 ^ 32 ∧
      b.apb2Hz.toNat = c / p.pllm.toNat * p.plln.toNat / p.pllp.toNat / hpreDiv s.params.codes p.hpre /
        ppreDiv s.params.codes p.ppre2 % 2 ^ 32 ∧
      b.ahbMs.toNat = b.ahbHz.toNat / 1000 ∧ b.ahbUs.toNat = b.ahbHz.toNat / 1000000 ∧
      b.apb1Ms.toNat = b.apb1Hz.toNat / 1000 ∧ b.apb1Us.toNat = b.apb1Hz.toNat / 1000000 ∧
      b.apb2Ms.toNat = b.apb2Hz.toNat / 1000 ∧ b.apb2Us.toNat = b.apb2Hz.toNat / 1000000

/-- 47 R187: for an entry that meets 42 R141 no truncation happens. -/
def Obligations.ValidProfilePublishesExactly : Prop :=
  ∀ (q : Params) (cr : BitVec 8) (p : ClockScaleProfile), paramsWf q = true →
    profileValid (crystalHzAt q cr) p = true → p.pllp ≠ 0 →
    (publishedBank q cr p).ahbHz.toNat =
      crystalHzAt q cr / p.pllm.toNat * p.plln.toNat / p.pllp.toNat / hpreDiv q.codes p.hpre ∧
    (publishedBank q cr p).apb1Hz.toNat =
      crystalHzAt q cr / p.pllm.toNat * p.plln.toNat / p.pllp.toNat / hpreDiv q.codes p.hpre / ppreDiv q.codes p.ppre1 ∧
    (publishedBank q cr p).apb2Hz.toNat =
      crystalHzAt q cr / p.pllm.toNat * p.plln.toNat / p.pllp.toNat / hpreDiv q.codes p.hpre / ppreDiv q.codes p.ppre2

/-- 47 R193: the published values are a function of the operands and the read-only stores: two publications with the same
crystal, profile and parameters write the same bank, whatever else differs. -/
def Obligations.PublicationIsAFunctionOfOperands : Prop :=
  ∀ (s s' t t' : State) (m m' : Mark), s.params = s'.params → s.cto.crystal = s'.cto.crystal →
    s.cto.prof = s'.cto.prof → s.cto.prof ≠ none →
    exec (.freqPublish m) s = .next t → exec (.freqPublish m') s' = .next t' → t.cto.bank = t'.cto.bank

/-- 47 R188: END. -/
def Obligations.EndFinishesTheRun : Prop :=
  ∀ (s : State) (m : Mark), exec (.uEnd m) s = .next { s with
    cto := { s.cto with
    state := match m with
      | .enter st => st
      | .keep => s.cto.state
    busy := false, done := true, upc := 0, ph := false, tmp := none, pollcnt := 0 } }

/-- 10 R25, 60 R222, R223: each reader of an empty profile latch raises NoProfile before any transaction, at either phase. -/
def Obligations.EmptyProfileFaultsFirst : Prop :=
  ∀ (s : State) (m : Mark) (ic dc : Bool), s.cto.prof = none →
    ∀ i ∈ [Instr.vosSetScale m, .preSetAhb m, .preSetApb1 m, .preSetApb2 m, .pllConfigure m, .flashSetWs ic dc m,
      .freqPublish m], exec i s = .next { s with cto := faultedWith s.cto 6 0 }

/-- 60 R221, R222: which faults each micro-operation can raise, by code and source, illegal words apart. -/
def Obligations.FaultsOfEachMicroOperation : Prop :=
  ∀ (i : Instr) (s t : State), i.format = .u → exec i s = .next t → s.cto.fault = false → t.cto.fault = true →
    match i with
    | .oscWaitReady src _ => t.cto.faultCode = 1 ∧ t.cto.faultSrc = src.code ∧ s.cto.limit ≠ 0
    | .swWait src _ => (t.cto.faultCode = 2 ∧ t.cto.faultSrc = src.code ∧ s.cto.limit ≠ 0) ∨
        (t.cto.faultCode = 4 ∧ t.cto.faultSrc = 0 ∧ s.params.codes.sw.get src = none)
    | .swSelect src _ => t.cto.faultCode = 4 ∧ t.cto.faultSrc = 0 ∧ s.params.codes.sw.get src = none
    | .profLookup _ => t.cto.faultCode = 5 ∧ t.cto.faultSrc = 0
    | .pllConfigure _ => (t.cto.faultCode = 6 ∧ t.cto.faultSrc = 0 ∧ s.cto.prof = none) ∨
        (t.cto.faultCode = 3 ∧ t.cto.faultSrc = 2)
    | .vosSetScale _ | .preSetAhb _ | .preSetApb1 _ | .preSetApb2 _ | .flashSetWs .. | .freqPublish _ =>
        t.cto.faultCode = 6 ∧ t.cto.faultSrc = 0 ∧ s.cto.prof = none
    | _ => False

/-- 47 R189, 10 R21, R22, of the micro-operations (the acceptance of CONFIGURE, 48 R202, and reset, 10 R49, write both too):
a micro-operation leaves `upc`, raises it by 1 or, if it is END, makes it 0; it changes `state` only as it moves `upc` on or
is END; a fault it raises leaves both. -/
def Obligations.MicroProgramCounterMoves : Prop :=
  ∀ (i : Instr) (s t : State), i.format = .u → exec i s = .next t →
    (t.cto.upc = s.cto.upc ∧ t.cto.state = s.cto.state) ∨
    (t.cto.upc = s.cto.upc + 1 ∧ t.cto.fault = s.cto.fault ∧ t.cto.ph = false ∧ t.cto.pollcnt = 0) ∨
    (∃ m, i = .uEnd m ∧ t.cto.upc = 0 ∧ t.cto.fault = s.cto.fault)

/-! ## Host commands and registers -/

/-- 48 R201: the command with opcode 0 is NOP whatever its other bits; it clears cmderr and does nothing else. -/
def Obligations.NopClearsTheVerdict : Prop :=
  (∀ s : State, exec .nop s = .next { s with cto := { s.cto with cmderr := 0 } }) ∧
  ∀ w : Word, w.extractLsb' 0 4 = 0 → decodeH w = .nop

/-- 48 R202, 30 R102: the command with opcode 1 is CONFIGURE; its checks in order, and what acceptance writes. -/
def Obligations.ConfigureChecksThenAccepts : Prop :=
  (∀ (s : State) (c g : BitVec 8) (lo : BitVec 4) (hi : BitVec 8),
    exec (.configure c g lo hi) s = .next { s with
      cto :=
      if s.cto.busy = true ∨ s.cto.fault = true then { s.cto with cmderr := 1 }
      else if lo ≠ 0 ∨ hi ≠ 0 ∨ s.params.ncrystal ≤ c.toNat ∨ s.params.ntarget ≤ g.toNat then { s.cto with cmderr := 3 }
      else { s.cto with
        crystal := some c, target := some g, argsValid := true, limit := s.cto.pollLimit, prof := none, state := .idle,
        upc := 0, ph := false, tmp := none, pollcnt := 0, done := false, busy := true, cmderr := 0 } }) ∧
  ∀ w : Word, w.extractLsb' 0 4 = 1 →
    decodeH w = .configure (w.extractLsb' 8 8) (w.extractLsb' 16 8) (w.extractLsb' 4 4) (w.extractLsb' 24 8)

/-- 48 R203, 30 R102: every reserved command opcode is rejected with BadOpcode, whatever busy and fault are, and the words
with such an opcode decode to it. -/
def Obligations.ReservedOpcodesAreRejected : Prop :=
  (∀ s : State, ∀ i ∈ [Instr.cmdReserved2, .cmdReserved3, .cmdReserved4, .cmdReserved5, .cmdReserved6, .cmdReserved7,
      .cmdReserved8, .cmdReserved9, .cmdReserved10, .cmdReserved11, .cmdReserved12, .cmdReserved13, .cmdReserved14,
      .cmdReserved15], exec i s = .next { s with cto := { s.cto with cmderr := 2 } }) ∧
  ∀ (s : State) (w : Word), 2 ≤ (w.extractLsb' 0 4).toNat →
    exec (decodeH w) s = .next { s with cto := { s.cto with cmderr := 2 } }

/-- 48 R204 to R212, R218: each accessor returns its bank register and changes nothing. -/
def Obligations.AccessorsReturnTheBank : Prop :=
  ∀ s : State, ∀ x ∈ [(Instr.qAhbHz, s.cto.bank.ahbHz), (.qApb1Hz, s.cto.bank.apb1Hz), (.qApb2Hz, s.cto.bank.apb2Hz),
      (.qAhbMs, s.cto.bank.ahbMs), (.qAhbUs, s.cto.bank.ahbUs), (.qApb1Ms, s.cto.bank.apb1Ms),
      (.qApb1Us, s.cto.bank.apb1Us), (.qApb2Ms, s.cto.bank.apb2Ms), (.qApb2Us, s.cto.bank.apb2Us)],
    ∃ t, exec x.1 s = .next t ∧ Returned s t x.2

/-- 48 R213, 10 R42: the fields of STATUS, all of the step of the read. -/
def Obligations.StatusShowsTheFlags : Prop :=
  ∀ s : State, ∃ (t : State) (w : Word), exec .rdStatus s = .next t ∧ Returned s t w ∧
    w.extractLsb' 0 4 = s.cto.state.code ∧ w.getLsbD 4 = s.cto.busy ∧ w.getLsbD 5 = s.cto.done ∧
    w.getLsbD 6 = s.cto.fault ∧ w.getLsbD 7 = s.cto.rdy ∧ w.extractLsb' 8 4 = s.cto.faultCode ∧
    w.extractLsb' 12 3 = s.cto.faultSrc ∧ w.getLsbD 15 = false ∧ w.extractLsb' 16 5 = s.cto.upc ∧
    w.extractLsb' 21 3 = 0 ∧ w.extractLsb' 24 2 = s.cto.cmderr ∧ w.extractLsb' 26 6 = 0

/-- 48 R214, 10 R43: ARGS. -/
def Obligations.ArgsShowTheLatches : Prop :=
  ∀ s : State, (s.cto.argsValid = false → ∃ t, exec .rdArgs s = .next t ∧ Returned s t 0) ∧
    ∀ c g : BitVec 8, s.cto.argsValid = true → s.cto.crystal = some c → s.cto.target = some g →
      ∃ (t : State) (w : Word), exec .rdArgs s = .next t ∧ Returned s t w ∧ w.extractLsb' 0 8 = c ∧
        w.extractLsb' 8 8 = g ∧ w.extractLsb' 16 15 = 0 ∧ w.getLsbD 31 = true

/-- 48 R215, 10 R29: POLL_LIMIT reads and writes as one word; the running limit is not touched. -/
def Obligations.PollLimitReadsAndWrites : Prop :=
  ∀ (s : State) (w : Word),
    exec (.wrPollLimit w) s = .next { s with cto := { s.cto with pollLimit := w } } ∧
    ∃ t, exec .rdPollLimit s = .next t ∧ Returned s t s.cto.pollLimit

/-- 48 R216, 10 R46: as turns of the host, reads of CMD and of the reserved offsets return 0, and writes of every register
but CMD and POLL_LIMIT are ignored. -/
def Obligations.OtherHostAccessesDoNothing : Prop :=
  ∀ (s : State) (rest : List Turn) (k : Nat) (w : Word), paramsWf s.params = true → k < 16 →
    (k = 0 ∨ 13 ≤ k → s.agenda = .host ⟨false, s.params.hostBase + 4 * k, 4, w⟩ :: rest →
      step s = .next { s with agenda := rest, returned := s.returned ++ [0] }) ∧
    (k ≠ 0 → k ≠ 3 → s.agenda = .host ⟨true, s.params.hostBase + 4 * k, 4, w⟩ :: rest →
      step s = .next { s with agenda := rest })

/-! ## The register-field primitives -/

/-- 40 R120, R124: RF_READ returns the word read, RF_TEST whether any masked bit of it is set; one read each.
That it hands this truth value back as the word 1 or 0 is the model's choice (log entry 3). -/
def Obligations.RfReadAndTestReturn : Prop :=
  ∀ (s : State) (a : Addr) (k : Word), named s.params.regs a = true →
    ∃ t u, exec (.rfRead a) s = .next { t with returned := s.returned ++ [readValue s .plain a] } ∧
      exec (.rfTest a k) s = .next { u with returned := s.returned ++ [if readValue s .plain a &&& k ≠ 0 then 1 else 0] } ∧
      OneRead s t .plain a s.cto ∧ OneRead s u .plain a s.cto

/-- 40 R121: RF_WRITE replaces the whole word. -/
def Obligations.RfWriteReplacesTheWord : Prop :=
  ∀ (s : State) (a : Addr) (v : Word), named s.params.regs a = true → Memory.wf s.mem = true →
    ∃ t, exec (.rfWrite a v) s = .next t ∧ OneWrite s t a v s.cto

/-- 40 R122, R123, R125: the three read-modify-writes: one read kept in `tmp`, then one write computed from it. -/
def Obligations.RfReadModifyWrites : Prop :=
  ∀ (s : State) (a : Addr) (k m : Word) (sh v : Nat), named s.params.regs a = true → Memory.wf s.mem = true →
    s.cto.ph = false →
    ∀ x ∈ [(Instr.rfSetBits a k, readValue s .plain a ||| k), (.rfClearBits a k, readValue s .plain a &&& ~~~k),
        (.rfMaskedUpdate a m sh v,
          (readValue s .plain a &&& ~~~(m <<< sh)) ||| ((BitVec.ofNat 32 v &&& m) <<< sh))],
      ∃ t u, exec x.1 s = .next t ∧ OneRead s t .plain a (betweenHalves s a) ∧
        exec x.1 t = .next u ∧ OneWrite t u a x.2 { s.cto with ph := false, tmp := none }

/-- 40 R126: the register round trip. For a field of width w at shift sh made of storage bits, after RF_MASKED_UPDATE with
any v, RF_READ gives back v mod 2^w in the field. -/
def Obligations.FieldRoundTrip : Prop :=
  ∀ (s : State) (a : Addr) (w sh v : Nat), named s.params.regs a = true → Memory.wf s.mem = true → s.cto.ph = false →
    sh + w ≤ 32 → (∀ b, sh ≤ b → b < sh + w → StorageBit s a b) →
    ∃ t u r x, exec (.rfMaskedUpdate a (BitVec.ofNat 32 (2 ^ w - 1)) sh v) s = .next t ∧
      exec (.rfMaskedUpdate a (BitVec.ofNat 32 (2 ^ w - 1)) sh v) t = .next u ∧
      exec (.rfRead a) u = .next r ∧ r.returned = s.returned ++ [x] ∧
      ((x &&& (BitVec.ofNat 32 (2 ^ w - 1) <<< sh)) >>> sh).toNat = v % 2 ^ w

/-- 20 R72: a read-modify-write is not atomic: what another agent writes to the word between its read and its write is lost
for every storage bit outside the mask. -/
def Obligations.ReadModifyWriteLosesForeignWrite : Prop :=
  ∀ (s : State) (a : Addr) (k v : Word), named s.params.regs a = true → Memory.wf s.mem = true → s.cto.ph = false →
    s.cto.busy = false →
    ∃ t f u, exec (.rfSetBits a k) s = .next t ∧ foreignTurn a v t = .next f ∧ exec (.rfSetBits a k) f = .next u ∧
      ∀ b, StorageBit s a b → (u.mem.word a).getLsbD b = ((s.mem.word a).getLsbD b || k.getLsbD b)

/-- 20 R66 and R67 (precondition): a primitive given an address RegMap does not name makes no transaction. That it stops with noSuchRegister is the model's choice (log entry 19). -/
def Obligations.UnnamedAddressStops : Prop :=
  ∀ (s : State) (a : Addr) (k m : Word) (sh v : Nat), named s.params.regs a = false →
    ∀ i ∈ [Instr.rfRead a, .rfWrite a k, .rfSetBits a k, .rfClearBits a k, .rfTest a k, .rfMaskedUpdate a m sh v],
      exec i s = .fault (.noSuchRegister a)

/-! ## The step -/

/-- 47 R180: when the sequencer has the turn and a run is in progress, a legal word at `upc` runs as the instruction it
decodes to. -/
def Obligations.StepRunsTheDecodedMicroWord : Prop :=
  ∀ (s : State) (rest : List Turn) (i : Instr), paramsWf s.params = true → s.cto.busy = true → s.cto.fault = false →
    decodeU s.params.codes.sw (s.urom.get s.cto.upc.toFin) = .ok i →
    (s.agenda = [] → step s = exec i s) ∧
    (s.agenda = .sequencer :: rest → step s = exec i { s with agenda := rest })

/-- 20 R62, 48 R200: a host access of an instruction's register runs that instruction: every word written to CMD runs the
command it decodes to, whatever its other bits; every access of another register for which the port's decoder has an
instruction runs that one, whatever data a read carries; among them the access that encodes an instruction runs it. -/
def Obligations.StepRunsTheHostAccess : Prop :=
  ∀ (s : State) (rest : List Turn) (a : HostAccess), paramsWf s.params = true → s.agenda = .host a :: rest →
    (a.we = true → a.bytes = 4 → a.addr = s.params.hostBase → step s = exec (decodeH a.data) { s with agenda := rest }) ∧
    (∀ (k : Nat) (i : Instr), k < 16 → a.bytes = 4 → a.addr = s.params.hostBase + 4 * k →
      (if a.we = true then decodeHostWrite (BitVec.ofNat 4 k) a.data else decodeHostRead (BitVec.ofNat 4 k)) = .ok i →
      step s = exec i { s with agenda := rest }) ∧
    ∀ i : Instr, i.format = .h ∨ i.format = .hq → hostAccessOf s.params.hostBase (encode i) = some a →
      step s = exec i { s with agenda := rest }

/-- 30 R101, 60 R224: on the sequencer's turn an illegal word at `upc` raises IllegalUop: fault, its code and source are
written and nothing else changes (but the turn is taken from the list). -/
def Obligations.IllegalWordFaults : Prop :=
  ∀ (s : State) (rest : List Turn) (r : Reject), paramsWf s.params = true → s.cto.busy = true → s.cto.fault = false →
    decodeU s.params.codes.sw (s.urom.get s.cto.upc.toFin) = .error r →
    (s.agenda = [] → step s = .next { s with cto := { s.cto with fault := true, faultCode := 4, faultSrc := 0 } }) ∧
    (s.agenda = .sequencer :: rest →
      step s = .next { s with agenda := rest, cto := { s.cto with fault := true, faultCode := 4, faultSrc := 0 } })

/-- 47 R180, 60 R234: without a run in progress, or after a fault, the sequencer's turn changes nothing (but is taken from
the list). -/
def Obligations.IdleSequencerHolds : Prop :=
  ∀ (s : State) (rest : List Turn), paramsWf s.params = true → s.cto.busy = false ∨ s.cto.fault = true →
    (s.agenda = [] → step s = .next s) ∧ (s.agenda = .sequencer :: rest → step s = .next { s with agenda := rest })

/-- 70 R250, 10 R49: reset gives every piece of the CTO's state its reset value and touches nothing else. -/
def Obligations.ResetRestoresTheCtoOnly : Prop :=
  ∀ (s : State) (rest : List Turn), paramsWf s.params = true → s.agenda = .reset :: rest →
    step s = .next { s with
      agenda := rest
      cto := {
      state := .idle, upc := 0, ph := false, tmp := none, crystal := none, target := none, argsValid := false, prof := none,
      busy := false, done := false, fault := false, rdy := false, faultCode := 0, faultSrc := 0, cmderr := 0, pollcnt := 0,
      limit := 0, pollLimit := 0,
      bank := { ahbHz := 8000000, apb1Hz := 8000000, apb2Hz := 8000000, ahbMs := 8000, ahbUs := 8, apb1Ms := 8000,
                apb1Us := 8, apb2Ms := 8000, apb2Us := 8 } } }

/-- 20 R62, R79, 00 R9: what has no meaning is refused by name: a map that breaks R9, a host access of another form, a foreign
write during a run. That tables which break 00 R8 or R10 are refused too is the model's choice (log entry 28). -/
def Obligations.RefusedMoves : Prop :=
  ∀ (s : State) (rest : List Turn) (h : HostAccess) (a : Addr) (v : Word),
    (RegMap.wf s.params.regs = false → step s = .refused .badConfiguration) ∧
    (tablesWf s.params = false → step s = .refused .badConfiguration) ∧
    (paramsWf s.params = true → s.agenda = .host h :: rest →
      h.bytes ≠ 4 ∨ h.addr < s.params.hostBase ∨ s.params.hostBase + 64 ≤ h.addr ∨ (h.addr - s.params.hostBase) % 4 ≠ 0 →
      step s = .refused .hostAccessForm) ∧
    (paramsWf s.params = true → s.agenda = .foreignWrite a v :: rest → s.cto.busy = true →
      step s = .refused .foreignWriteDuringRun)

/-- 20 R79, R67: outside a run a foreign write changes the storage bits of its word and nothing else: no status bit, no byte
outside the word, nothing of the CTO, the trace or the environment. -/
def Obligations.ForeignWriteOutsideARun : Prop :=
  ∀ (s : State) (rest : List Turn) (a : Addr) (v : Word), Sound s → s.agenda = .foreignWrite a v :: rest →
    s.cto.busy = false → named s.params.regs a = true →
    ∃ t, step s = .next t ∧ t.cto = s.cto ∧ t.trace = s.trace ∧ SameBytesOutside s t a ∧ t.params = s.params ∧
      t.urom = s.urom ∧ t.returned = s.returned ∧ t.agenda = rest ∧ t.env = s.env ∧ t.draws = s.draws ∧
      (∀ b, StorageBit s a b → (t.mem.word a).getLsbD b = v.getLsbD b) ∧
      ∀ b, ¬ StorageBit s a b → (t.mem.word a).getLsbD b = (s.mem.word a).getLsbD b

/-! ## Rules of the whole machine -/

/-- 10 R31, R32, 20 R77: no step of any agent changes the micro-ROM or the parameters. -/
def Obligations.ReadOnlyStoresNeverChange : Prop :=
  ∀ s t : State, step s = .next t → t.urom = s.urom ∧ t.params = s.params

/-- 00 R14, 20 R60, R80, 47 R180: a step records at most one transaction, and only on the turn of the running sequencer, at
its `upc`, at an address RegMap names; a turn of any other agent records none; no earlier record is lost. -/
def Obligations.AtMostOneTransactionAStep : Prop :=
  ∀ s t : State, step s = .next t → t.trace = s.trace ∨
    ∃ x : Txn, t.trace = s.trace ++ [x] ∧ x.upc = s.cto.upc ∧ named s.params.regs x.addr = true ∧
      SequencersTurn s ∧ s.cto.busy = true ∧ s.cto.fault = false

/-- 10 R30: the bank is written by FREQ_PUBLISH, on the sequencer's turn, and by a turn of reset, and by nothing else. -/
def Obligations.OnlyPublicationWritesTheBank : Prop :=
  ∀ s t : State, step s = .next t → t.cto.bank ≠ s.cto.bank →
    s.agenda.head? = some .reset ∨
      (SequencersTurn s ∧ s.cto.busy = true ∧ s.cto.fault = false ∧
        ∃ m, decodeU s.params.codes.sw (fetch s) = .ok (.freqPublish m))

/-- 10 R26, R27, 60 R224, R225: after a fault no step but reset changes anything of the CTO except the verdict of commands
and POLL_LIMIT. -/
def Obligations.FaultIsSticky : Prop :=
  ∀ s t : State, s.cto.fault = true → s.agenda.head? ≠ some .reset → step s = .next t →
    t.cto = { s.cto with cmderr := t.cto.cmderr, pollLimit := t.cto.pollLimit } ∧ t.trace = s.trace

/-- 10 R50 and the canonical form of memory: every step of every agent keeps the machine's invariant. -/
def Obligations.StepKeepsTheInvariants : Prop :=
  ∀ s t : State, Inv s → step s = .next t → Inv t

/-- 10 R49, R50: the invariant holds at launch with any parameters, at State.reset among them. -/
def Obligations.LaunchMeetsTheInvariants : Prop := (∀ p : Params, Inv (State.launch p)) ∧ Inv State.reset

/-- 47 R182, R183, 10 R25, R50, 20 R75, 60 R221: with the fixed micro-ROM every step keeps: `state` names the last completed
action, the profile is latched before its readers, a completed run is in HsiDisabled and has published its frequencies, and
neither IllegalUop nor NoProfile occurs. -/
def Obligations.StepKeepsTheSequence : Prop :=
  ∀ s t : State, Inv s → RomInv s → step s = .next t → RomInv t

/-- The same at launch, for parameters under which HSI and PLL can be SYSCLK. -/
def Obligations.LaunchMeetsTheSequence : Prop :=
  ∀ p : Params, p.codes.sw.hsi.isSome = true → p.codes.sw.pll.isSome = true → RomInv (State.launch p)

/-- 47 R192, 20 R74: with the fixed micro-ROM, the transactions of any number of sequencer steps are recorded in the order of
the micro-ROM, each at a word not before the one the run stood at: so the prescaler writes (words 7 to 9) precede the PLL
configuration write (word 10), and the flash write (word 13) precedes the select write (word 14). -/
def Obligations.TraceFollowsTheMicroRom : Prop :=
  ∀ (n : Nat) (s t : State), Inv s → RomInv s → s.agenda = [] → Host.Core.run core n s = .next t →
    ∃ l, t.trace = s.trace ++ l ∧ inRomOrder l ∧ ∀ x ∈ l, s.cto.upc.toNat ≤ x.upc.toNat ∧ x.upc.toNat ≤ 18

/-- 47 R191, 20 R70: under EnvNominal a run that stands at word 0, with an entry that can be executed, codes for HSI and PLL
and the PLL enable bit clear, completes in 31 steps and 28 transactions; it ends in HsiDisabled with its frequencies
published. For a map whose fields CFG.SW and CFG.SWS differ in width this rests on the model's choice of log entry 30. -/
def Obligations.NominalRunCompletes : Prop :=
  ∀ (s : State) (c : Word), Sound s → s.agenda = [] → s.env = .nominal → s.urom = rom → s.cto.busy = true →
    s.cto.fault = false → s.cto.upc = 0 → s.cto.ph = false → badProfile s.params.codes (selectedProfile s) = false →
    s.params.codes.sw.hsi.isSome = true → s.params.codes.sw.pll = some c → c &&& s.params.regs.sw.mask = c →
    storedBit s.mem s.params.regs.en.pll = false →
    ∃ t, Host.Core.run core 31 s = .next t ∧ t.cto.done = true ∧ t.cto.busy = false ∧ t.cto.fault = false ∧
      t.cto.upc = 0 ∧ t.cto.state = .hsiDisabled ∧ t.cto.prof = some (selectedProfile s) ∧
      t.cto.bank = publishedBank s.params s.cto.crystalCode (selectedProfile s) ∧
      t.trace.length = s.trace.length + 28

/-- 47 R193, 42 R143: whatever the environment answers, a run that stands at word 0 with the PLL enable bit set never
publishes and never completes: the bank keeps its values, `upc` stays at 10 or below, and nothing is written at word 10. Where
the map gives the PLL configuration word an address that no word written before word 10 has (20 R60 lets words coincide), no
transaction writes it and its stored value stays. -/
def Obligations.PllEnabledRunNeverPublishes : Prop :=
  ∀ (n : Nat) (s t : State), Inv s → RomInv s → s.agenda = [] → s.cto.busy = true → s.cto.upc = 0 → s.cto.ph = false →
    storedBit s.mem s.params.regs.en.pll = true → Host.Core.run core n s = .next t →
    t.cto.bank = s.cto.bank ∧ t.cto.busy = true ∧ t.cto.done = false ∧ t.cto.upc.toNat ≤ 10 ∧
      ∃ l, t.trace = s.trace ++ l ∧ (∀ x ∈ l, x.upc = 10 → x.we = false) ∧
        (s.params.regs.pllcfgAddr ∉ [s.params.regs.en.hsi.addr, s.params.regs.en.hse.addr, s.params.regs.pwrAddr,
            s.params.regs.cfgAddr] →
          (∀ x ∈ l, x.we = true → x.addr ≠ s.params.regs.pllcfgAddr) ∧
          t.mem.word s.params.regs.pllcfgAddr = s.mem.word s.params.regs.pllcfgAddr)

/-! ## Encodings -/

/-- 30 R107: decode after encode is the identity on every well-formed instruction of the decodable formats, with every
operand at every value. -/
def Obligations.DecodeOfEncodeIsIdentity : Prop :=
  ∀ (sw : PerSource (Option Word)) (i : Instr), WellFormed sw i = true → i.format ≠ .bus →
    decode sw (encode i) = .ok i

/-- 30 R107: encode after decode is the identity on legal micro-words, and what a legal word decodes to is well-formed. -/
def Obligations.EncodeOfDecodeIsIdentity : Prop :=
  ∀ (sw : PerSource (Option Word)) (w : MicroWord) (i : Instr), decodeU sw w = .ok i →
    encode i = .micro w ∧ WellFormed sw i = true ∧ i.format = .u

/-- 30 R101: exactly these micro-words are illegal. -/
def Obligations.IllegalWordsAreExactlyThese : Prop :=
  ∀ (sw : PerSource (Option Word)) (w : MicroWord), (∃ r, decodeU sw w = .error r) ↔
    ((w.extractLsb' 12 4).toNat = 0 ∨ (w.extractLsb' 12 4).toNat = 14 ∨ (w.extractLsb' 12 4).toNat = 15 ∨
     w.extractLsb' 4 3 ≠ 0 ∨ (w.extractLsb' 0 4).toNat = 0 ∨ (w.extractLsb' 0 4).toNat = 14 ∨
     ((w.extractLsb' 12 4).toNat ≤ 6 ∧ w.extractLsb' 9 3 = 7) ∨
     (((w.extractLsb' 12 4).toNat = 5 ∨ (w.extractLsb' 12 4).toNat = 6) ∧
       ∀ src, ClockSource.ofCode (w.extractLsb' 9 3) = some src → sw.get src = none) ∨
     (6 < (w.extractLsb' 12 4).toNat ∧ w.extractLsb' 9 3 ≠ 0) ∨
     ((w.extractLsb' 12 4).toNat ≠ 9 ∧ (w.extractLsb' 12 4).toNat ≠ 11 ∧ w.extractLsb' 7 2 ≠ 0) ∨
     ((w.extractLsb' 12 4).toNat = 9 ∧ w.extractLsb' 7 2 = 3))

/-- 30 R96, R105, R97: worked words. -/
def Obligations.WorkedWordsDecode : Prop :=
  decodeU p0Codes.sw 0x1203 = .ok (.oscEnable .hse (.enter .hseEnabled)) ∧
  decodeU p0Codes.sw 0x908F = .ok (.preSetApb1 .keep) ∧
  decodeU p0Codes.sw 0xB18A = .ok (.flashSetWs true true (.enter .flashConfigured)) ∧
  decodeU p0Codes.sw 0xD00F = .ok (.uEnd .keep) ∧
  decodeH 0x00010101 = .configure 1 1 0 0
end

