-- ==== Sys2Proof/Laws/State.lean ====
section
/-! SUPPORT. One lemma per field per update of the state: what each shared operation leaves in each field. -/

namespace Sys2Proof.Machine

/-! `afterRead` -/

@[simp] theorem afterRead_cto (s : State) (w : Purpose) (a : Addr) : (afterRead s w a).cto = s.cto := rfl
@[simp] theorem afterRead_mem (s : State) (w : Purpose) (a : Addr) : (afterRead s w a).mem = s.mem := rfl
@[simp] theorem afterRead_env (s : State) (w : Purpose) (a : Addr) : (afterRead s w a).env = s.env.advance := rfl
@[simp] theorem afterRead_draws (s : State) (w : Purpose) (a : Addr) : (afterRead s w a).draws = s.draws + 1 := rfl
@[simp] theorem afterRead_trace (s : State) (w : Purpose) (a : Addr) : (afterRead s w a).trace = s.trace ++ [⟨s.cto.upc, false, a, readValue s w a⟩] := rfl
@[simp] theorem afterRead_returned (s : State) (w : Purpose) (a : Addr) : (afterRead s w a).returned = s.returned := rfl
@[simp] theorem afterRead_agenda (s : State) (w : Purpose) (a : Addr) : (afterRead s w a).agenda = s.agenda := rfl
@[simp] theorem afterRead_params (s : State) (w : Purpose) (a : Addr) : (afterRead s w a).params = s.params := rfl
@[simp] theorem afterRead_urom (s : State) (w : Purpose) (a : Addr) : (afterRead s w a).urom = s.urom := rfl

/-! `afterWrite` -/

@[simp] theorem afterWrite_cto (s : State) (a : Addr) (v : Word) : (afterWrite s a v).cto = s.cto := rfl
@[simp] theorem afterWrite_mem (s : State) (a : Addr) (v : Word) : (afterWrite s a v).mem = s.mem.write s.params.regs a v := rfl
@[simp] theorem afterWrite_env (s : State) (a : Addr) (v : Word) : (afterWrite s a v).env = s.env := rfl
@[simp] theorem afterWrite_draws (s : State) (a : Addr) (v : Word) : (afterWrite s a v).draws = s.draws := rfl
@[simp] theorem afterWrite_trace (s : State) (a : Addr) (v : Word) : (afterWrite s a v).trace = s.trace ++ [⟨s.cto.upc, true, a, v⟩] := rfl
@[simp] theorem afterWrite_returned (s : State) (a : Addr) (v : Word) : (afterWrite s a v).returned = s.returned := rfl
@[simp] theorem afterWrite_agenda (s : State) (a : Addr) (v : Word) : (afterWrite s a v).agenda = s.agenda := rfl
@[simp] theorem afterWrite_params (s : State) (a : Addr) (v : Word) : (afterWrite s a v).params = s.params := rfl
@[simp] theorem afterWrite_urom (s : State) (a : Addr) (v : Word) : (afterWrite s a v).urom = s.urom := rfl

/-! `reply` -/

@[simp] theorem reply_cto (s : State) (v : Word) : (reply s v).cto = s.cto := rfl
@[simp] theorem reply_mem (s : State) (v : Word) : (reply s v).mem = s.mem := rfl
@[simp] theorem reply_env (s : State) (v : Word) : (reply s v).env = s.env := rfl
@[simp] theorem reply_draws (s : State) (v : Word) : (reply s v).draws = s.draws := rfl
@[simp] theorem reply_trace (s : State) (v : Word) : (reply s v).trace = s.trace := rfl
@[simp] theorem reply_returned (s : State) (v : Word) : (reply s v).returned = s.returned ++ [v] := rfl
@[simp] theorem reply_agenda (s : State) (v : Word) : (reply s v).agenda = s.agenda := rfl
@[simp] theorem reply_params (s : State) (v : Word) : (reply s v).params = s.params := rfl
@[simp] theorem reply_urom (s : State) (v : Word) : (reply s v).urom = s.urom := rfl

/-! `complete` -/

@[simp] theorem complete_cto (m : Mark) (s : State) : (complete m s).cto = s.cto.complete m := rfl
@[simp] theorem complete_mem (m : Mark) (s : State) : (complete m s).mem = s.mem := rfl
@[simp] theorem complete_env (m : Mark) (s : State) : (complete m s).env = s.env := rfl
@[simp] theorem complete_draws (m : Mark) (s : State) : (complete m s).draws = s.draws := rfl
@[simp] theorem complete_trace (m : Mark) (s : State) : (complete m s).trace = s.trace := rfl
@[simp] theorem complete_returned (m : Mark) (s : State) : (complete m s).returned = s.returned := rfl
@[simp] theorem complete_agenda (m : Mark) (s : State) : (complete m s).agenda = s.agenda := rfl
@[simp] theorem complete_params (m : Mark) (s : State) : (complete m s).params = s.params := rfl
@[simp] theorem complete_urom (m : Mark) (s : State) : (complete m s).urom = s.urom := rfl

/-! `raise` -/

@[simp] theorem raise_cto (f : FaultCause) (s : State) : (raise f s).cto = s.cto.raise f := rfl
@[simp] theorem raise_mem (f : FaultCause) (s : State) : (raise f s).mem = s.mem := rfl
@[simp] theorem raise_env (f : FaultCause) (s : State) : (raise f s).env = s.env := rfl
@[simp] theorem raise_draws (f : FaultCause) (s : State) : (raise f s).draws = s.draws := rfl
@[simp] theorem raise_trace (f : FaultCause) (s : State) : (raise f s).trace = s.trace := rfl
@[simp] theorem raise_returned (f : FaultCause) (s : State) : (raise f s).returned = s.returned := rfl
@[simp] theorem raise_agenda (f : FaultCause) (s : State) : (raise f s).agenda = s.agenda := rfl
@[simp] theorem raise_params (f : FaultCause) (s : State) : (raise f s).params = s.params := rfl
@[simp] theorem raise_urom (f : FaultCause) (s : State) : (raise f s).urom = s.urom := rfl

/-! `resetCto` -/

@[simp] theorem resetCto_cto (s : State) : (resetCto s).cto = Cto.reset := rfl
@[simp] theorem resetCto_mem (s : State) : (resetCto s).mem = s.mem := rfl
@[simp] theorem resetCto_env (s : State) : (resetCto s).env = s.env := rfl
@[simp] theorem resetCto_draws (s : State) : (resetCto s).draws = s.draws := rfl
@[simp] theorem resetCto_trace (s : State) : (resetCto s).trace = s.trace := rfl
@[simp] theorem resetCto_returned (s : State) : (resetCto s).returned = s.returned := rfl
@[simp] theorem resetCto_agenda (s : State) : (resetCto s).agenda = s.agenda := rfl
@[simp] theorem resetCto_params (s : State) : (resetCto s).params = s.params := rfl
@[simp] theorem resetCto_urom (s : State) : (resetCto s).urom = s.urom := rfl

/-! `verdict` -/

@[simp] theorem verdict_mem (s : State) (v : BitVec 2) : (verdict s v).mem = s.mem := rfl
@[simp] theorem verdict_env (s : State) (v : BitVec 2) : (verdict s v).env = s.env := rfl
@[simp] theorem verdict_draws (s : State) (v : BitVec 2) : (verdict s v).draws = s.draws := rfl
@[simp] theorem verdict_trace (s : State) (v : BitVec 2) : (verdict s v).trace = s.trace := rfl
@[simp] theorem verdict_returned (s : State) (v : BitVec 2) : (verdict s v).returned = s.returned := rfl
@[simp] theorem verdict_agenda (s : State) (v : BitVec 2) : (verdict s v).agenda = s.agenda := rfl
@[simp] theorem verdict_params (s : State) (v : BitVec 2) : (verdict s v).params = s.params := rfl
@[simp] theorem verdict_urom (s : State) (v : BitVec 2) : (verdict s v).urom = s.urom := rfl
@[simp] theorem verdict_cto_state (s : State) (v : BitVec 2) : (verdict s v).cto.state = s.cto.state := rfl
@[simp] theorem verdict_cto_upc (s : State) (v : BitVec 2) : (verdict s v).cto.upc = s.cto.upc := rfl
@[simp] theorem verdict_cto_ph (s : State) (v : BitVec 2) : (verdict s v).cto.ph = s.cto.ph := rfl
@[simp] theorem verdict_cto_tmp (s : State) (v : BitVec 2) : (verdict s v).cto.tmp = s.cto.tmp := rfl
@[simp] theorem verdict_cto_crystal (s : State) (v : BitVec 2) : (verdict s v).cto.crystal = s.cto.crystal := rfl
@[simp] theorem verdict_cto_target (s : State) (v : BitVec 2) : (verdict s v).cto.target = s.cto.target := rfl
@[simp] theorem verdict_cto_argsValid (s : State) (v : BitVec 2) : (verdict s v).cto.argsValid = s.cto.argsValid := rfl
@[simp] theorem verdict_cto_prof (s : State) (v : BitVec 2) : (verdict s v).cto.prof = s.cto.prof := rfl
@[simp] theorem verdict_cto_busy (s : State) (v : BitVec 2) : (verdict s v).cto.busy = s.cto.busy := rfl
@[simp] theorem verdict_cto_done (s : State) (v : BitVec 2) : (verdict s v).cto.done = s.cto.done := rfl
@[simp] theorem verdict_cto_fault (s : State) (v : BitVec 2) : (verdict s v).cto.fault = s.cto.fault := rfl
@[simp] theorem verdict_cto_rdy (s : State) (v : BitVec 2) : (verdict s v).cto.rdy = s.cto.rdy := rfl
@[simp] theorem verdict_cto_faultCode (s : State) (v : BitVec 2) : (verdict s v).cto.faultCode = s.cto.faultCode := rfl
@[simp] theorem verdict_cto_faultSrc (s : State) (v : BitVec 2) : (verdict s v).cto.faultSrc = s.cto.faultSrc := rfl
@[simp] theorem verdict_cto_cmderr (s : State) (v : BitVec 2) : (verdict s v).cto.cmderr = v := rfl
@[simp] theorem verdict_cto_pollcnt (s : State) (v : BitVec 2) : (verdict s v).cto.pollcnt = s.cto.pollcnt := rfl
@[simp] theorem verdict_cto_limit (s : State) (v : BitVec 2) : (verdict s v).cto.limit = s.cto.limit := rfl
@[simp] theorem verdict_cto_pollLimit (s : State) (v : BitVec 2) : (verdict s v).cto.pollLimit = s.cto.pollLimit := rfl
@[simp] theorem verdict_cto_bank (s : State) (v : BitVec 2) : (verdict s v).cto.bank = s.cto.bank := rfl

/-! `endPrimitive` -/

@[simp] theorem endPrimitive_mem (s : State) : (endPrimitive s).mem = s.mem := rfl
@[simp] theorem endPrimitive_env (s : State) : (endPrimitive s).env = s.env := rfl
@[simp] theorem endPrimitive_draws (s : State) : (endPrimitive s).draws = s.draws := rfl
@[simp] theorem endPrimitive_trace (s : State) : (endPrimitive s).trace = s.trace := rfl
@[simp] theorem endPrimitive_returned (s : State) : (endPrimitive s).returned = s.returned := rfl
@[simp] theorem endPrimitive_agenda (s : State) : (endPrimitive s).agenda = s.agenda := rfl
@[simp] theorem endPrimitive_params (s : State) : (endPrimitive s).params = s.params := rfl
@[simp] theorem endPrimitive_urom (s : State) : (endPrimitive s).urom = s.urom := rfl
@[simp] theorem endPrimitive_cto_state (s : State) : (endPrimitive s).cto.state = s.cto.state := rfl
@[simp] theorem endPrimitive_cto_upc (s : State) : (endPrimitive s).cto.upc = s.cto.upc := rfl
@[simp] theorem endPrimitive_cto_ph (s : State) : (endPrimitive s).cto.ph = false := rfl
@[simp] theorem endPrimitive_cto_tmp (s : State) : (endPrimitive s).cto.tmp = none := rfl
@[simp] theorem endPrimitive_cto_crystal (s : State) : (endPrimitive s).cto.crystal = s.cto.crystal := rfl
@[simp] theorem endPrimitive_cto_target (s : State) : (endPrimitive s).cto.target = s.cto.target := rfl
@[simp] theorem endPrimitive_cto_argsValid (s : State) : (endPrimitive s).cto.argsValid = s.cto.argsValid := rfl
@[simp] theorem endPrimitive_cto_prof (s : State) : (endPrimitive s).cto.prof = s.cto.prof := rfl
@[simp] theorem endPrimitive_cto_busy (s : State) : (endPrimitive s).cto.busy = s.cto.busy := rfl
@[simp] theorem endPrimitive_cto_done (s : State) : (endPrimitive s).cto.done = s.cto.done := rfl
@[simp] theorem endPrimitive_cto_fault (s : State) : (endPrimitive s).cto.fault = s.cto.fault := rfl
@[simp] theorem endPrimitive_cto_rdy (s : State) : (endPrimitive s).cto.rdy = s.cto.rdy := rfl
@[simp] theorem endPrimitive_cto_faultCode (s : State) : (endPrimitive s).cto.faultCode = s.cto.faultCode := rfl
@[simp] theorem endPrimitive_cto_faultSrc (s : State) : (endPrimitive s).cto.faultSrc = s.cto.faultSrc := rfl
@[simp] theorem endPrimitive_cto_cmderr (s : State) : (endPrimitive s).cto.cmderr = s.cto.cmderr := rfl
@[simp] theorem endPrimitive_cto_pollcnt (s : State) : (endPrimitive s).cto.pollcnt = s.cto.pollcnt := rfl
@[simp] theorem endPrimitive_cto_limit (s : State) : (endPrimitive s).cto.limit = s.cto.limit := rfl
@[simp] theorem endPrimitive_cto_pollLimit (s : State) : (endPrimitive s).cto.pollLimit = s.cto.pollLimit := rfl
@[simp] theorem endPrimitive_cto_bank (s : State) : (endPrimitive s).cto.bank = s.cto.bank := rfl

/-! `rmwRead` -/

@[simp] theorem rmwRead_mem (s : State) (a : Addr) : (rmwRead s a).mem = s.mem := rfl
@[simp] theorem rmwRead_env (s : State) (a : Addr) : (rmwRead s a).env = s.env.advance := rfl
@[simp] theorem rmwRead_draws (s : State) (a : Addr) : (rmwRead s a).draws = s.draws + 1 := rfl
@[simp] theorem rmwRead_trace (s : State) (a : Addr) : (rmwRead s a).trace = s.trace ++ [⟨s.cto.upc, false, a, readValue s .plain a⟩] := rfl
@[simp] theorem rmwRead_returned (s : State) (a : Addr) : (rmwRead s a).returned = s.returned := rfl
@[simp] theorem rmwRead_agenda (s : State) (a : Addr) : (rmwRead s a).agenda = s.agenda := rfl
@[simp] theorem rmwRead_params (s : State) (a : Addr) : (rmwRead s a).params = s.params := rfl
@[simp] theorem rmwRead_urom (s : State) (a : Addr) : (rmwRead s a).urom = s.urom := rfl
@[simp] theorem rmwRead_cto_state (s : State) (a : Addr) : (rmwRead s a).cto.state = s.cto.state := rfl
@[simp] theorem rmwRead_cto_upc (s : State) (a : Addr) : (rmwRead s a).cto.upc = s.cto.upc := rfl
@[simp] theorem rmwRead_cto_ph (s : State) (a : Addr) : (rmwRead s a).cto.ph = true := rfl
@[simp] theorem rmwRead_cto_tmp (s : State) (a : Addr) : (rmwRead s a).cto.tmp = some (readValue s .plain a) := rfl
@[simp] theorem rmwRead_cto_crystal (s : State) (a : Addr) : (rmwRead s a).cto.crystal = s.cto.crystal := rfl
@[simp] theorem rmwRead_cto_target (s : State) (a : Addr) : (rmwRead s a).cto.target = s.cto.target := rfl
@[simp] theorem rmwRead_cto_argsValid (s : State) (a : Addr) : (rmwRead s a).cto.argsValid = s.cto.argsValid := rfl
@[simp] theorem rmwRead_cto_prof (s : State) (a : Addr) : (rmwRead s a).cto.prof = s.cto.prof := rfl
@[simp] theorem rmwRead_cto_busy (s : State) (a : Addr) : (rmwRead s a).cto.busy = s.cto.busy := rfl
@[simp] theorem rmwRead_cto_done (s : State) (a : Addr) : (rmwRead s a).cto.done = s.cto.done := rfl
@[simp] theorem rmwRead_cto_fault (s : State) (a : Addr) : (rmwRead s a).cto.fault = s.cto.fault := rfl
@[simp] theorem rmwRead_cto_rdy (s : State) (a : Addr) : (rmwRead s a).cto.rdy = s.cto.rdy := rfl
@[simp] theorem rmwRead_cto_faultCode (s : State) (a : Addr) : (rmwRead s a).cto.faultCode = s.cto.faultCode := rfl
@[simp] theorem rmwRead_cto_faultSrc (s : State) (a : Addr) : (rmwRead s a).cto.faultSrc = s.cto.faultSrc := rfl
@[simp] theorem rmwRead_cto_cmderr (s : State) (a : Addr) : (rmwRead s a).cto.cmderr = s.cto.cmderr := rfl
@[simp] theorem rmwRead_cto_pollcnt (s : State) (a : Addr) : (rmwRead s a).cto.pollcnt = s.cto.pollcnt := rfl
@[simp] theorem rmwRead_cto_limit (s : State) (a : Addr) : (rmwRead s a).cto.limit = s.cto.limit := rfl
@[simp] theorem rmwRead_cto_pollLimit (s : State) (a : Addr) : (rmwRead s a).cto.pollLimit = s.cto.pollLimit := rfl
@[simp] theorem rmwRead_cto_bank (s : State) (a : Addr) : (rmwRead s a).cto.bank = s.cto.bank := rfl

/-! `Cto.complete` -/

@[simp] theorem Cto.complete_state (c : Cto) (m : Mark) : (c.complete m).state = Mark.apply m c.state := rfl
@[simp] theorem Cto.complete_upc (c : Cto) (m : Mark) : (c.complete m).upc = c.upc + 1 := rfl
@[simp] theorem Cto.complete_ph (c : Cto) (m : Mark) : (c.complete m).ph = false := rfl
@[simp] theorem Cto.complete_tmp (c : Cto) (m : Mark) : (c.complete m).tmp = none := rfl
@[simp] theorem Cto.complete_crystal (c : Cto) (m : Mark) : (c.complete m).crystal = c.crystal := rfl
@[simp] theorem Cto.complete_target (c : Cto) (m : Mark) : (c.complete m).target = c.target := rfl
@[simp] theorem Cto.complete_argsValid (c : Cto) (m : Mark) : (c.complete m).argsValid = c.argsValid := rfl
@[simp] theorem Cto.complete_prof (c : Cto) (m : Mark) : (c.complete m).prof = c.prof := rfl
@[simp] theorem Cto.complete_busy (c : Cto) (m : Mark) : (c.complete m).busy = c.busy := rfl
@[simp] theorem Cto.complete_done (c : Cto) (m : Mark) : (c.complete m).done = c.done := rfl
@[simp] theorem Cto.complete_fault (c : Cto) (m : Mark) : (c.complete m).fault = c.fault := rfl
@[simp] theorem Cto.complete_rdy (c : Cto) (m : Mark) : (c.complete m).rdy = c.rdy := rfl
@[simp] theorem Cto.complete_faultCode (c : Cto) (m : Mark) : (c.complete m).faultCode = c.faultCode := rfl
@[simp] theorem Cto.complete_faultSrc (c : Cto) (m : Mark) : (c.complete m).faultSrc = c.faultSrc := rfl
@[simp] theorem Cto.complete_cmderr (c : Cto) (m : Mark) : (c.complete m).cmderr = c.cmderr := rfl
@[simp] theorem Cto.complete_pollcnt (c : Cto) (m : Mark) : (c.complete m).pollcnt = 0 := rfl
@[simp] theorem Cto.complete_limit (c : Cto) (m : Mark) : (c.complete m).limit = c.limit := rfl
@[simp] theorem Cto.complete_pollLimit (c : Cto) (m : Mark) : (c.complete m).pollLimit = c.pollLimit := rfl
@[simp] theorem Cto.complete_bank (c : Cto) (m : Mark) : (c.complete m).bank = c.bank := rfl

/-! `Cto.raise` -/

@[simp] theorem Cto.raise_state (c : Cto) (f : FaultCause) : (c.raise f).state = c.state := rfl
@[simp] theorem Cto.raise_upc (c : Cto) (f : FaultCause) : (c.raise f).upc = c.upc := rfl
@[simp] theorem Cto.raise_ph (c : Cto) (f : FaultCause) : (c.raise f).ph = c.ph := rfl
@[simp] theorem Cto.raise_tmp (c : Cto) (f : FaultCause) : (c.raise f).tmp = c.tmp := rfl
@[simp] theorem Cto.raise_crystal (c : Cto) (f : FaultCause) : (c.raise f).crystal = c.crystal := rfl
@[simp] theorem Cto.raise_target (c : Cto) (f : FaultCause) : (c.raise f).target = c.target := rfl
@[simp] theorem Cto.raise_argsValid (c : Cto) (f : FaultCause) : (c.raise f).argsValid = c.argsValid := rfl
@[simp] theorem Cto.raise_prof (c : Cto) (f : FaultCause) : (c.raise f).prof = c.prof := rfl
@[simp] theorem Cto.raise_busy (c : Cto) (f : FaultCause) : (c.raise f).busy = c.busy := rfl
@[simp] theorem Cto.raise_done (c : Cto) (f : FaultCause) : (c.raise f).done = c.done := rfl
@[simp] theorem Cto.raise_fault (c : Cto) (f : FaultCause) : (c.raise f).fault = true := rfl
@[simp] theorem Cto.raise_rdy (c : Cto) (f : FaultCause) : (c.raise f).rdy = c.rdy := rfl
@[simp] theorem Cto.raise_faultCode (c : Cto) (f : FaultCause) : (c.raise f).faultCode = f.code := rfl
@[simp] theorem Cto.raise_faultSrc (c : Cto) (f : FaultCause) : (c.raise f).faultSrc = f.source := rfl
@[simp] theorem Cto.raise_cmderr (c : Cto) (f : FaultCause) : (c.raise f).cmderr = c.cmderr := rfl
@[simp] theorem Cto.raise_pollcnt (c : Cto) (f : FaultCause) : (c.raise f).pollcnt = c.pollcnt := rfl
@[simp] theorem Cto.raise_limit (c : Cto) (f : FaultCause) : (c.raise f).limit = c.limit := rfl
@[simp] theorem Cto.raise_pollLimit (c : Cto) (f : FaultCause) : (c.raise f).pollLimit = c.pollLimit := rfl
@[simp] theorem Cto.raise_bank (c : Cto) (f : FaultCause) : (c.raise f).bank = c.bank := rfl

/-! `Cto.finish` -/

@[simp] theorem Cto.finish_state (c : Cto) (m : Mark) : (c.finish m).state = Mark.apply m c.state := rfl
@[simp] theorem Cto.finish_upc (c : Cto) (m : Mark) : (c.finish m).upc = 0 := rfl
@[simp] theorem Cto.finish_ph (c : Cto) (m : Mark) : (c.finish m).ph = false := rfl
@[simp] theorem Cto.finish_tmp (c : Cto) (m : Mark) : (c.finish m).tmp = none := rfl
@[simp] theorem Cto.finish_crystal (c : Cto) (m : Mark) : (c.finish m).crystal = c.crystal := rfl
@[simp] theorem Cto.finish_target (c : Cto) (m : Mark) : (c.finish m).target = c.target := rfl
@[simp] theorem Cto.finish_argsValid (c : Cto) (m : Mark) : (c.finish m).argsValid = c.argsValid := rfl
@[simp] theorem Cto.finish_prof (c : Cto) (m : Mark) : (c.finish m).prof = c.prof := rfl
@[simp] theorem Cto.finish_busy (c : Cto) (m : Mark) : (c.finish m).busy = false := rfl
@[simp] theorem Cto.finish_done (c : Cto) (m : Mark) : (c.finish m).done = true := rfl
@[simp] theorem Cto.finish_fault (c : Cto) (m : Mark) : (c.finish m).fault = c.fault := rfl
@[simp] theorem Cto.finish_rdy (c : Cto) (m : Mark) : (c.finish m).rdy = c.rdy := rfl
@[simp] theorem Cto.finish_faultCode (c : Cto) (m : Mark) : (c.finish m).faultCode = c.faultCode := rfl
@[simp] theorem Cto.finish_faultSrc (c : Cto) (m : Mark) : (c.finish m).faultSrc = c.faultSrc := rfl
@[simp] theorem Cto.finish_cmderr (c : Cto) (m : Mark) : (c.finish m).cmderr = c.cmderr := rfl
@[simp] theorem Cto.finish_pollcnt (c : Cto) (m : Mark) : (c.finish m).pollcnt = 0 := rfl
@[simp] theorem Cto.finish_limit (c : Cto) (m : Mark) : (c.finish m).limit = c.limit := rfl
@[simp] theorem Cto.finish_pollLimit (c : Cto) (m : Mark) : (c.finish m).pollLimit = c.pollLimit := rfl
@[simp] theorem Cto.finish_bank (c : Cto) (m : Mark) : (c.finish m).bank = c.bank := rfl

/-! `Cto.accept` -/

@[simp] theorem Cto.accept_state (c : Cto) (crystal target : BitVec 8) : (c.accept crystal target).state = .idle := rfl
@[simp] theorem Cto.accept_upc (c : Cto) (crystal target : BitVec 8) : (c.accept crystal target).upc = 0 := rfl
@[simp] theorem Cto.accept_ph (c : Cto) (crystal target : BitVec 8) : (c.accept crystal target).ph = false := rfl
@[simp] theorem Cto.accept_tmp (c : Cto) (crystal target : BitVec 8) : (c.accept crystal target).tmp = none := rfl
@[simp] theorem Cto.accept_crystal (c : Cto) (crystal target : BitVec 8) : (c.accept crystal target).crystal = some crystal := rfl
@[simp] theorem Cto.accept_target (c : Cto) (crystal target : BitVec 8) : (c.accept crystal target).target = some target := rfl
@[simp] theorem Cto.accept_argsValid (c : Cto) (crystal target : BitVec 8) : (c.accept crystal target).argsValid = true := rfl
@[simp] theorem Cto.accept_prof (c : Cto) (crystal target : BitVec 8) : (c.accept crystal target).prof = none := rfl
@[simp] theorem Cto.accept_busy (c : Cto) (crystal target : BitVec 8) : (c.accept crystal target).busy = true := rfl
@[simp] theorem Cto.accept_done (c : Cto) (crystal target : BitVec 8) : (c.accept crystal target).done = false := rfl
@[simp] theorem Cto.accept_fault (c : Cto) (crystal target : BitVec 8) : (c.accept crystal target).fault = c.fault := rfl
@[simp] theorem Cto.accept_rdy (c : Cto) (crystal target : BitVec 8) : (c.accept crystal target).rdy = c.rdy := rfl
@[simp] theorem Cto.accept_faultCode (c : Cto) (crystal target : BitVec 8) : (c.accept crystal target).faultCode = c.faultCode := rfl
@[simp] theorem Cto.accept_faultSrc (c : Cto) (crystal target : BitVec 8) : (c.accept crystal target).faultSrc = c.faultSrc := rfl
@[simp] theorem Cto.accept_cmderr (c : Cto) (crystal target : BitVec 8) : (c.accept crystal target).cmderr = accepted := rfl
@[simp] theorem Cto.accept_pollcnt (c : Cto) (crystal target : BitVec 8) : (c.accept crystal target).pollcnt = 0 := rfl
@[simp] theorem Cto.accept_limit (c : Cto) (crystal target : BitVec 8) : (c.accept crystal target).limit = c.pollLimit := rfl
@[simp] theorem Cto.accept_pollLimit (c : Cto) (crystal target : BitVec 8) : (c.accept crystal target).pollLimit = c.pollLimit := rfl
@[simp] theorem Cto.accept_bank (c : Cto) (crystal target : BitVec 8) : (c.accept crystal target).bank = c.bank := rfl

end Sys2Proof.Machine
end

