-- ==== Sys2Proof/Laws/Memory.lean ====
section
/-! SUPPORT. Memory: read after write, frames, and that every operation keeps the canonical form. -/

namespace Sys2Proof.Machine

theorem Memory.lookup_insert (m : Memory) (a b : Nat) (v : Byte) (h : Memory.wf m = true) :
    (m.insert a v).lookup b = if a = b then some v else m.lookup b := by
  induction m with
  | nil => simp [Memory.insert, Memory.lookup]
  | cons c rest ih =>
    obtain ⟨k, w⟩ := c
    have hr : Memory.wf rest = true := by
      cases rest with
      | nil => rfl
      | cons d r => simp only [Memory.wf, Bool.and_eq_true] at h; exact h.2
    have ih := ih hr
    by_cases h1 : a < k
    · simp only [Memory.insert, h1, if_true, Memory.lookup]
    · by_cases h2 : k = a
      · subst h2
        simp only [Memory.insert, h1, if_false, if_true, Memory.lookup]
        by_cases h3 : k = b <;> simp [h3]
      · simp only [Memory.insert, h1, h2, if_false, Memory.lookup, ih]
        by_cases h3 : k = b
        · have : a ≠ b := by omega
          simp [h3, this]
        · simp [h3]

/-- The first key of a memory, if it has one, is above a bound. -/
def Memory.above (m : Memory) (n : Nat) : Prop := ∀ c, m.head? = some c → n < c.1

theorem Memory.wf_cons (k : Nat) (b : Byte) (rest : Memory) :
    Memory.wf ((k, b) :: rest) = true ↔ Memory.above rest k ∧ Memory.wf rest = true := by
  cases rest with
  | nil => simp [Memory.wf, Memory.above]
  | cons d r => simp [Memory.wf, Memory.above]

theorem Memory.insert_above (m : Memory) (a n : Nat) (v : Byte) (h : m.above n) (ha : n < a) :
    (m.insert a v).above n := by
  cases m with
  | nil => simpa [Memory.insert, Memory.above] using ha
  | cons c rest =>
    obtain ⟨k, w⟩ := c
    have hk : n < k := h (k, w) rfl
    simp only [Memory.insert]
    split
    · simpa [Memory.above] using ha
    · split <;> simpa [Memory.above] using by omega

theorem Memory.insert_wf (m : Memory) (a : Nat) (v : Byte) (h : Memory.wf m = true) :
    Memory.wf (m.insert a v) = true := by
  induction m with
  | nil => rfl
  | cons c rest ih =>
    obtain ⟨k, w⟩ := c
    have ⟨hab, hr⟩ := (Memory.wf_cons k w rest).1 h
    simp only [Memory.insert]
    split
    · next h1 => exact (Memory.wf_cons _ _ _).2 ⟨by intro c hc; simp at hc; subst hc; exact h1, h⟩
    · split
      · next h2 => subst h2; exact (Memory.wf_cons _ _ _).2 ⟨hab, hr⟩
      · exact (Memory.wf_cons _ _ _).2 ⟨Memory.insert_above rest a k v hab (by omega), ih hr⟩

theorem Memory.byte_insert (m : Memory) (a b : Nat) (v : Byte) (h : Memory.wf m = true) :
    (m.insert a v).byte b = if a = b then v else m.byte b := by
  simp only [Memory.byte, Memory.lookup_insert m a b v h]
  split <;> simp

theorem Memory.storeWord_wf (m : Memory) (a : Addr) (v : Word) (h : Memory.wf m = true) :
    Memory.wf (m.storeWord a v) = true :=
  Memory.insert_wf _ _ _ (Memory.insert_wf _ _ _ (Memory.insert_wf _ _ _ (Memory.insert_wf _ _ _ h)))

theorem Memory.write_wf (m : Memory) (r : RegMap) (a : Addr) (v : Word) (h : Memory.wf m = true) :
    Memory.wf (m.write r a v) = true := Memory.storeWord_wf m a _ h

/-- The four stored bytes, and every other byte as before. -/
theorem Memory.byte_storeWord (m : Memory) (a : Addr) (v : Word) (n : Nat) (h : Memory.wf m = true) :
    (m.storeWord a v).byte n =
      if n = a.toNat + 3 then v.extractLsb' 24 8
      else if n = a.toNat + 2 then v.extractLsb' 16 8
      else if n = a.toNat + 1 then v.extractLsb' 8 8
      else if n = a.toNat then v.extractLsb' 0 8 else m.byte n := by
  have h1 := Memory.insert_wf m a.toNat (v.extractLsb' 0 8) h
  have h2 := Memory.insert_wf _ (a.toNat + 1) (v.extractLsb' 8 8) h1
  have h3 := Memory.insert_wf _ (a.toNat + 2) (v.extractLsb' 16 8) h2
  unfold Memory.storeWord
  rw [Memory.byte_insert _ _ _ _ h3, Memory.byte_insert _ _ _ _ h2, Memory.byte_insert _ _ _ _ h1,
    Memory.byte_insert _ _ _ _ h]
  simp only [eq_comm (a := n)]

/-- A store changes no byte outside the word. -/
theorem Memory.byte_storeWord_outside (m : Memory) (a : Addr) (v : Word) (n : Nat) (h : Memory.wf m = true)
    (hn : n < a.toNat ∨ a.toNat + 4 ≤ n) : (m.storeWord a v).byte n = m.byte n := by
  rw [Memory.byte_storeWord m a v n h]
  split
  · omega
  split
  · omega
  split
  · omega
  split
  · omega
  rfl

theorem Memory.byte_write_outside (m : Memory) (r : RegMap) (a : Addr) (v : Word) (n : Nat) (h : Memory.wf m = true)
    (hn : n < a.toNat ∨ a.toNat + 4 ≤ n) : (m.write r a v).byte n = m.byte n :=
  Memory.byte_storeWord_outside m a _ n h hn

theorem bytes_of_word (v : Word) :
    (v.extractLsb' 24 8 ++ v.extractLsb' 16 8 ++ v.extractLsb' 8 8 ++ v.extractLsb' 0 8 : Word) = v := by
  refine BitVec.eq_of_getLsbD_eq fun i hi => ?_
  simp only [BitVec.getLsbD_append, BitVec.getLsbD_extractLsb']
  by_cases h1 : i < 8
  · simp [h1]
  · by_cases h2 : i - 8 < 8
    · simp only [h1, h2, if_false, decide_true, Bool.true_and]
      simp [show 8 + (i - 8) = i by omega]
    · by_cases h3 : i - 8 - 8 < 8
      · simp [h1, h2, h3, show 16 + (i - 8 - 8) = i by omega]
      · simp [h1, h2, h3, show i - 8 - 8 - 8 < 8 by omega, show 24 + (i - 8 - 8 - 8) = i by omega]

/-- A stored word reads back. -/
theorem Memory.word_storeWord (m : Memory) (a : Addr) (v : Word) (h : Memory.wf m = true) :
    (m.storeWord a v).word a = v := by
  unfold Memory.word
  simp only [Memory.byte_storeWord _ _ _ _ h]
  simp only [if_true, Nat.add_left_cancel_iff, Nat.add_eq_left, Nat.left_eq_add,
    OfNat.ofNat_ne_zero, OfNat.ofNat_ne_one, if_false, one_ne_zero]
  simp [bytes_of_word]

/-- A word that shares no byte with a stored word reads as before. -/
theorem Memory.word_storeWord_apart (m : Memory) (a b : Addr) (v : Word) (h : Memory.wf m = true)
    (hab : b.toNat + 4 ≤ a.toNat ∨ a.toNat + 4 ≤ b.toNat) : (m.storeWord a v).word b = m.word b := by
  unfold Memory.word
  rw [Memory.byte_storeWord_outside _ _ _ _ h (by omega), Memory.byte_storeWord_outside _ _ _ _ h (by omega),
    Memory.byte_storeWord_outside _ _ _ _ h (by omega), Memory.byte_storeWord_outside _ _ _ _ h (by omega)]

/-- Two different aligned words share no byte. -/
theorem Memory.word_storeWord_ne (m : Memory) (a b : Addr) (v : Word) (h : Memory.wf m = true)
    (ha : addrOk a = true) (hb : addrOk b = true) (hab : a ≠ b) : (m.storeWord a v).word b = m.word b := by
  apply Memory.word_storeWord_apart _ _ _ _ h
  simp only [addrOk, beq_iff_eq] at ha hb
  have : a.toNat ≠ b.toNat := fun e => hab (BitVec.eq_of_toNat_eq e)
  omega

/-- The word a write leaves: storage bits as written, status bits as before (20 R67). -/
theorem Memory.word_write (m : Memory) (r : RegMap) (a : Addr) (v : Word) (h : Memory.wf m = true) :
    (m.write r a v).word a = (m.word a &&& statusMask r a) ||| (v &&& ~~~statusMask r a) :=
  Memory.word_storeWord m a _ h

/-- A storage bit takes the written value. -/
theorem Memory.storage_bit_write (m : Memory) (r : RegMap) (a : Addr) (v : Word) (b : Nat) (h : Memory.wf m = true)
    (hs : (statusMask r a).getLsbD b = false) : ((m.write r a v).word a).getLsbD b = v.getLsbD b := by
  rw [Memory.word_write m r a v h]
  simp only [BitVec.getLsbD_or, BitVec.getLsbD_and, BitVec.getLsbD_not, hs]
  by_cases hb : b < 32
  · simp [hb]
  · simp [hb, BitVec.getLsbD_of_ge v b (by omega)]

/-- A status bit ignores a write (20 R67). -/
theorem Memory.status_bit_write (m : Memory) (r : RegMap) (a : Addr) (v : Word) (b : Nat) (h : Memory.wf m = true)
    (hs : (statusMask r a).getLsbD b = true) : ((m.write r a v).word a).getLsbD b = (m.word a).getLsbD b := by
  rw [Memory.word_write m r a v h]
  simp [BitVec.getLsbD_or, BitVec.getLsbD_and, BitVec.getLsbD_not, hs]

/-- Another aligned word is as before a write. -/
theorem Memory.word_write_ne (m : Memory) (r : RegMap) (a b : Addr) (v : Word) (h : Memory.wf m = true)
    (ha : addrOk a = true) (hb : addrOk b = true) (hab : a ≠ b) : (m.write r a v).word b = m.word b :=
  Memory.word_storeWord_ne m a b _ h ha hb hab

/-- A read gives the storage bits as they are (20 R66). -/
theorem readValue_storage_bit (s : State) (why : Purpose) (a : Addr) (b : Nat)
    (hs : (statusMask s.params.regs a).getLsbD b = false) :
    (readValue s why a).getLsbD b = (s.mem.word a).getLsbD b := by
  unfold readValue
  simp only [BitVec.getLsbD_or, BitVec.getLsbD_and, BitVec.getLsbD_not, hs]
  by_cases hb : b < 32
  · simp [hb]
  · simp [hb, BitVec.getLsbD_of_ge (s.mem.word a) b (by omega)]

/-- A read gives the status bits as the environment answers (20 R66, R69). -/
theorem readValue_status_bit (s : State) (why : Purpose) (a : Addr) (b : Nat)
    (hs : (statusMask s.params.regs a).getLsbD b = true) :
    (readValue s why a).getLsbD b = (envAnswer s why a).getLsbD b := by
  unfold readValue
  simp [BitVec.getLsbD_or, BitVec.getLsbD_and, BitVec.getLsbD_not, hs]

end Sys2Proof.Machine
end

