-- ==== Sys2Proof/Laws/Platform.lean ====
section
/-! SUPPORT. What an admitted register map guarantees (spec/00_scope.md R9): written fields hold storage bits only, fields of
one word do not overlap, fields lie inside the word. -/

namespace Sys2Proof.Machine

@[simp] theorem bitMask_getLsbD (b i : Nat) : (bitMask b).getLsbD i = (decide (b < 32) && decide (i = b)) := by
  unfold bitMask
  rw [BitVec.getLsbD_shiftLeft]
  by_cases h : i < b
  · simp [h, show i ≠ b by omega]
  · by_cases h2 : i = b
    · subst h2; simp
    · have : i - b ≠ 0 := by omega
      simp [h, h2, BitVec.getLsbD_one, this]

@[simp] theorem Field.mask_getLsbD (f : Field) (i : Nat) :
    f.mask.getLsbD i = (decide (i < 32) && decide (i < f.width)) := by
  unfold Field.mask
  rw [BitVec.getLsbD_ofNat, Nat.testBit_two_pow_sub_one]

@[simp] theorem Field.smask_getLsbD (f : Field) (i : Nat) :
    f.smask.getLsbD i = (decide (i < 32) && decide (f.shift ≤ i) && decide (i < f.shift + f.width)) := by
  unfold Field.smask
  rw [BitVec.getLsbD_shiftLeft, Field.mask_getLsbD]
  by_cases h : i < f.shift
  · simp [h, show ¬ f.shift ≤ i by omega]
  · by_cases h32 : i < 32
    · have h3 : i - f.shift < 32 := by omega
      have h4 : f.shift ≤ i := by omega
      simp only [h32, h, h3, h4, decide_true, decide_false, Bool.true_and, Bool.not_false]
      exact decide_eq_decide.2 (by omega)
    · simp [h32]

theorem allApart_append {xs ys : List (Addr × Word)} (h : allApart (xs ++ ys) = true) {x y : Addr × Word}
    (hx : x ∈ xs) (hy : y ∈ ys) : apart x y = true := by
  induction xs with
  | nil => simp at hx
  | cons z zs ih =>
    simp only [List.cons_append, allApart, Bool.and_eq_true, List.all_eq_true] at h
    rcases List.mem_cons.1 hx with rfl | hx
    · exact h.1 y (by simp [hy])
    · exact ih h.2 hx

theorem foldr_mask_zero (l : List (Addr × Word)) (x : Addr × Word) (h : ∀ y ∈ l, apart x y = true) :
    x.2 &&& l.foldr (fun p m => if p.1 = x.1 then p.2 ||| m else m) 0 = 0 := by
  induction l with
  | nil => simp
  | cons z zs ih =>
    have hz := h z (by simp)
    have ih := ih fun y hy => h y (by simp [hy])
    simp only [List.foldr_cons]
    split
    · next e =>
      simp only [apart, e, bne_self_eq_false, Bool.false_or, beq_iff_eq] at hz
      refine BitVec.eq_of_getLsbD_eq fun i _ => ?_
      have h1 := congrArg (fun v => v.getLsbD i) hz
      have h2 := congrArg (fun v => v.getLsbD i) ih
      simp only [BitVec.getLsbD_and, BitVec.getLsbD_or] at h1 h2 ⊢
      rw [Bool.and_or_distrib_left, h1, h2, Bool.or_self]
    · exact ih

theorem RegMap.wf_parts {r : RegMap} (h : RegMap.wf r = true) :
    (namedAddrs r).all addrOk = true ∧
    (r.en.toList ++ r.rdy.toList).all (fun l => l.bit < 32) = true ∧
    [r.icen, r.dcen, r.prften].all (· < 32) = true ∧
    [r.pllM, r.pllN, r.pllP, r.pllQ, r.pllR, r.pllSrc, r.sw, r.sws, r.hpre, r.ppre1, r.ppre2, r.vos, r.latency].all
      Field.fits = true ∧
    allApart (storageFields r ++ statusBits r) = true := by
  simp only [RegMap.wf, Bool.and_eq_true] at h
  exact ⟨h.1.1.1.1, h.1.1.1.2, h.1.1.2, h.1.2, h.2⟩

/-- A named storage field has no status bit in it (00 R9). -/
theorem storageField_apart_status {r : RegMap} (h : RegMap.wf r = true) {x : Addr × Word} (hx : x ∈ storageFields r) :
    x.2 &&& statusMask r x.1 = 0 :=
  foldr_mask_zero _ _ fun _ hy => allApart_append (RegMap.wf_parts h).2.2.2.2 hx hy

/-- A bit of a named storage field is no status bit. -/
theorem storageField_bit {r : RegMap} (h : RegMap.wf r = true) {x : Addr × Word} (hx : x ∈ storageFields r) {i : Nat}
    (hi : x.2.getLsbD i = true) : (statusMask r x.1).getLsbD i = false := by
  have h1 := congrArg (fun v => v.getLsbD i) (storageField_apart_status h hx)
  simpa [BitVec.getLsbD_and, hi] using h1

theorem PerSource.get_mem {α : Type} (p : PerSource α) (s : ClockSource) : p.get s ∈ p.toList := by
  cases s <;> simp [PerSource.get, PerSource.toList]

theorem enable_mem (r : RegMap) (s : ClockSource) : ((r.en.get s).addr, (r.en.get s).smask) ∈ storageFields r := by
  unfold storageFields
  exact List.mem_append_left _ (List.mem_map.2 ⟨_, PerSource.get_mem r.en s, rfl⟩)

theorem enable_bit_lt {r : RegMap} (h : RegMap.wf r = true) (s : ClockSource) : (r.en.get s).bit < 32 := by
  have := (RegMap.wf_parts h).2.1
  rw [List.all_eq_true] at this
  simpa using this _ (List.mem_append_left _ (PerSource.get_mem r.en s))

theorem ready_bit_lt {r : RegMap} (h : RegMap.wf r = true) (s : ClockSource) : (r.rdy.get s).bit < 32 := by
  have := (RegMap.wf_parts h).2.1
  rw [List.all_eq_true] at this
  simpa using this _ (List.mem_append_right _ (PerSource.get_mem r.rdy s))

/-- An enable bit is a storage bit. -/
theorem enable_is_storage {r : RegMap} (h : RegMap.wf r = true) (s : ClockSource) :
    (statusMask r (r.en.get s).addr).getLsbD (r.en.get s).bit = false :=
  storageField_bit h (enable_mem r s) (by simp [BitLoc.smask, enable_bit_lt h s])

theorem foldr_mask_mem (l : List (Addr × Word)) (x : Addr × Word) (hx : x ∈ l) (i : Nat) (hi : x.2.getLsbD i = true) :
    (l.foldr (fun p m => if p.1 = x.1 then p.2 ||| m else m) (0 : Word)).getLsbD i = true := by
  induction l with
  | nil => simp at hx
  | cons z zs ih =>
    simp only [List.foldr_cons]
    rcases List.mem_cons.1 hx with rfl | hx
    · simp [BitVec.getLsbD_or, hi]
    · split
      · rw [BitVec.getLsbD_or, ih hx, Bool.or_true]
      · exact ih hx

/-- A ready bit is a status bit. -/
theorem ready_is_status {r : RegMap} (h : RegMap.wf r = true) (s : ClockSource) :
    (statusMask r (r.rdy.get s).addr).getLsbD (r.rdy.get s).bit = true :=
  foldr_mask_mem (statusBits r) ((r.rdy.get s).addr, (r.rdy.get s).smask)
    (List.mem_append_left _ (List.mem_map.2 ⟨_, PerSource.get_mem r.rdy s, rfl⟩)) _
    (by simp [BitLoc.smask, ready_bit_lt h s])

/-- The bits of CFG.SWS are status bits. -/
theorem switchStatus_is_status {r : RegMap} {i : Nat} (hi : r.sws.smask.getLsbD i = true) :
    (statusMask r r.cfgAddr).getLsbD i = true :=
  foldr_mask_mem (statusBits r) (r.cfgAddr, r.sws.smask) (List.mem_append_right _ (by simp)) _ hi

/-- Every named address is aligned. -/
theorem named_aligned {r : RegMap} (h : RegMap.wf r = true) {a : Addr} (ha : a ∈ namedAddrs r) : addrOk a = true := by
  have := (RegMap.wf_parts h).1
  rw [List.all_eq_true] at this
  exact this a ha

theorem enable_named (r : RegMap) (s : ClockSource) : (r.en.get s).addr ∈ namedAddrs r := by
  unfold namedAddrs
  exact List.mem_append_left _ (List.mem_append_left _ (List.mem_map.2 ⟨_, PerSource.get_mem r.en s, rfl⟩))

theorem ready_named (r : RegMap) (s : ClockSource) : (r.rdy.get s).addr ∈ namedAddrs r := by
  unfold namedAddrs
  exact List.mem_append_left _ (List.mem_append_right _ (List.mem_map.2 ⟨_, PerSource.get_mem r.rdy s, rfl⟩))

theorem cfg_named (r : RegMap) : r.cfgAddr ∈ namedAddrs r := by simp [namedAddrs]
theorem pllcfg_named (r : RegMap) : r.pllcfgAddr ∈ namedAddrs r := by simp [namedAddrs]
theorem pwr_named (r : RegMap) : r.pwrAddr ∈ namedAddrs r := by simp [namedAddrs]
theorem flash_named (r : RegMap) : r.flashAddr ∈ namedAddrs r := by simp [namedAddrs]

/-- The parts of an admitted configuration. -/
theorem paramsWf_regs {p : Params} (h : paramsWf p = true) : RegMap.wf p.regs = true := by
  simp only [paramsWf, Bool.and_eq_true] at h; exact h.1

theorem paramsWf_tables {p : Params} (h : paramsWf p = true) : tablesWf p = true := by
  simp only [paramsWf, Bool.and_eq_true] at h; exact h.2

/-- Every listed or free AHB factor is at least 1 (00 R10). -/
theorem hpreDiv_pos {p : Params} (h : tablesWf p = true) (code : BitVec 8) : 1 ≤ hpreDiv p.codes code := by
  simp only [tablesWf, Bool.and_eq_true, List.all_eq_true] at h
  unfold hpreDiv
  by_cases hlt : code.toNat < p.codes.hpreDiv.length
  · rw [List.getD_eq_getElem _ _ hlt]
    simpa using h.1.2 _ (List.getElem_mem hlt)
  · rw [List.getD_eq_default _ _ (by omega)]
    omega

/-- Every listed or free APB factor is at least 1 (00 R10). -/
theorem ppreDiv_pos {p : Params} (h : tablesWf p = true) (code : BitVec 8) : 1 ≤ ppreDiv p.codes code := by
  simp only [tablesWf, Bool.and_eq_true, List.all_eq_true] at h
  unfold ppreDiv
  by_cases hlt : code.toNat < p.codes.ppreDiv.length
  · rw [List.getD_eq_getElem _ _ hlt]
    simpa using h.2 _ (List.getElem_mem hlt)
  · rw [List.getD_eq_default _ _ (by omega)]
    omega

end Sys2Proof.Machine
end

