-- ==== Sys2Proof/Laws/Ops.lean ====
section
/-! SUPPORT. One spec lemma per shared operation: what it answers, and everything it can change. -/

namespace Sys2Proof.Machine

@[simp] theorem Mark.apply_enter (st old : OState) : Mark.apply (.enter st) old = st := rfl
@[simp] theorem Mark.apply_keep (old : OState) : Mark.apply .keep old = old := rfl

/-- Testing a one-bit mask is looking at the bit (40 R124). -/
theorem testBits_bitMask (v : Word) (b : Nat) (hb : b < 32) : testBits v (bitMask b) = v.getLsbD b := by
  unfold testBits
  rw [Bool.eq_iff_iff, bne_iff_ne]
  constructor
  · intro h
    by_contra hc
    refine h (BitVec.eq_of_getLsbD_eq fun i _ => ?_)
    rw [BitVec.getLsbD_and, bitMask_getLsbD, show (0 : Word).getLsbD i = false from BitVec.getLsbD_zero]
    by_cases hi : i = b
    · subst hi
      rw [eq_false_of_ne_true hc, Bool.false_and]
    · rw [decide_eq_false hi, Bool.and_false, Bool.and_false]
  · intro h hc
    have e := congrArg (fun v => v.getLsbD b) hc
    change (v &&& bitMask b).getLsbD b = (0#32).getLsbD b at e
    rw [BitVec.getLsbD_and, h, bitMask_getLsbD, BitVec.getLsbD_zero, decide_eq_true hb, decide_eq_true rfl] at e
    exact Bool.noConfusion e

/-- Writing a profile latch reader's two cases (10 R25). -/
@[simp] theorem withProfile_none (s : State) (k : ClockScaleProfile → State) (h : s.cto.prof = none) :
    withProfile s k = raise .noProfile s := by
  unfold withProfile; rw [h]

@[simp] theorem withProfile_some (s : State) (k : ClockScaleProfile → State) (p : ClockScaleProfile)
    (h : s.cto.prof = some p) : withProfile s k = k p := by
  unfold withProfile; rw [h]

/-- The first half of a read-modify-write. -/
theorem rmw_first (s : State) (a : Addr) (f : Word → Word) (fin : State → State) (h : s.cto.ph = false) :
    rmw s a f fin = rmwRead s a := by
  unfold rmw; rw [h]; rfl

/-- The second half of a read-modify-write. -/
theorem rmw_second (s : State) (a : Addr) (f : Word → Word) (fin : State → State) (h : s.cto.ph = true) :
    rmw s a f fin = fin (afterWrite s a (f s.cto.held)) := by
  unfold rmw; rw [h]; rfl

@[simp] theorem rmwRead_held (s : State) (a : Addr) : (rmwRead s a).cto.held = readValue s .plain a := rfl

/-- The CTO between the halves. -/
theorem rmwRead_cto (s : State) (a : Addr) :
    (rmwRead s a).cto = { s.cto with ph := true, tmp := some (readValue s .plain a) } := rfl

theorem Cto.failedPoll_timeout (c : Cto) (f : FaultCause) (h : c.limit ≠ 0 ∧ c.pollcnt + 1 = c.limit) :
    c.failedPoll f = Cto.raise { c with pollcnt := c.pollcnt + 1 } f := by
  unfold Cto.failedPoll; exact if_pos h

theorem Cto.failedPoll_again (c : Cto) (f : FaultCause) (h : ¬ (c.limit ≠ 0 ∧ c.pollcnt + 1 = c.limit)) :
    c.failedPoll f = { c with pollcnt := c.pollcnt + 1 } := by
  unfold Cto.failedPoll; exact if_neg h

/-- A poll that finds what it waits for. -/
theorem poll_ok (s : State) (why : Purpose) (a : Addr) (ok : Word → Bool) (f : FaultCause) (m : Mark)
    (h : ok (readValue s why a) = true) : poll s why a ok f m = complete m (afterRead s why a) := by
  unfold poll; exact if_pos h

/-- A poll that does not. -/
theorem poll_failed (s : State) (why : Purpose) (a : Addr) (ok : Word → Bool) (f : FaultCause) (m : Mark)
    (h : ok (readValue s why a) = false) :
    poll s why a ok f m = { afterRead s why a with cto := s.cto.failedPoll f } := by
  unfold poll
  exact if_neg (by rw [h]; exact Bool.noConfusion)

/-- A read of a named field after `masked_update` of it (40 R125, R126). -/
theorem Field.get_getLsbD (f : Field) (w : Word) (i : Nat) :
    (f.get w).getLsbD i = (decide (i < 32) && decide (i < f.width) && w.getLsbD (f.shift + i)) := by
  unfold Field.get
  rw [BitVec.getLsbD_and, Field.mask_getLsbD, BitVec.getLsbD_ushiftRight, Bool.and_comm]

theorem Field.place_getLsbD (f : Field) (v : Word) (i : Nat) :
    (f.place v).getLsbD i =
      (decide (i < 32) && decide (f.shift ≤ i) && decide (i < f.shift + f.width) && v.getLsbD (i - f.shift)) := by
  unfold Field.place
  rw [BitVec.getLsbD_shiftLeft, BitVec.getLsbD_and, Field.mask_getLsbD]
  by_cases h : i < f.shift
  · simp [h, show ¬ f.shift ≤ i by omega]
  · by_cases h32 : i < 32
    · have e : decide (i - f.shift < f.width) = decide (i < f.shift + f.width) := decide_eq_decide.2 (by omega)
      simp [h, h32, show i - f.shift < 32 by omega, show f.shift ≤ i by omega, e, Bool.and_comm]
    · simp [h32]

/-- The bits of a field update: the field takes the value, the rest stays (40 R125). -/
theorem fieldUpdate_getLsbD (f : Field) (t v : Word) (i : Nat) :
    (fieldUpdate f t v).getLsbD i =
      if i < 32 ∧ f.shift ≤ i ∧ i < f.shift + f.width then v.getLsbD (i - f.shift) else t.getLsbD i := by
  have e : fieldUpdate f t v = (t &&& ~~~f.smask) ||| f.place v := by
    unfold fieldUpdate maskedUpdate Field.smask Field.place
    rw [BitVec.ofNat_toNat, BitVec.setWidth_eq]
  rw [e, BitVec.getLsbD_or, BitVec.getLsbD_and, BitVec.getLsbD_not, Field.smask_getLsbD, Field.place_getLsbD]
  by_cases h32 : i < 32
  · by_cases h1 : f.shift ≤ i
    · by_cases h2 : i < f.shift + f.width
      · simp [h32, h1, h2]
      · simp [h32, h1, h2]
    · simp [h32, h1]
  · simp [h32, BitVec.getLsbD_of_ge t i (by omega)]

/-- Completion never faults and leaves no phase (47 R181). -/
theorem Cto.complete_eq (c : Cto) (m : Mark) :
    c.complete m = { c with
      state := Mark.apply m c.state, ph := false, tmp := none, pollcnt := 0, upc := c.upc + 1 } := rfl

end Sys2Proof.Machine
end

