-- ==== Sys2Proof/Laws/Environment.lean ====
section
/-! SUPPORT. What the environments of spec/20_memory.md R70 show in the ready bits. -/

namespace Sys2Proof.Machine

/-- The ready bits of the word, bit by bit: bit `i` is set when it is the ready bit of some source there that reads ready. -/
theorem readyWord_getLsbD (r : RegMap) (a : Addr) (rdy : ClockSource → Bool) (i : Nat) :
    (readyWord r a rdy).getLsbD i = true ↔
      ∃ s, (r.rdy.get s).addr = a ∧ rdy s = true ∧ (r.rdy.get s).smask.getLsbD i = true := by
  have key : ∀ l : List ClockSource,
      (l.foldr (fun s w => if (r.rdy.get s).addr = a ∧ rdy s = true then (r.rdy.get s).smask ||| w else w) (0 : Word)).getLsbD i
        = true ↔ ∃ s ∈ l, (r.rdy.get s).addr = a ∧ rdy s = true ∧ (r.rdy.get s).smask.getLsbD i = true := by
    intro l
    induction l with
    | nil => simp
    | cons x xs ih =>
      simp only [List.foldr_cons]
      split
      · next h => rw [BitVec.getLsbD_or, Bool.or_eq_true, ih]; simp [h]
      · next h =>
        rw [ih]
        simp only [List.mem_cons, exists_eq_or_imp]
        exact ⟨.inr, fun h' => h'.elim (fun hx => absurd ⟨hx.1, hx.2.1⟩ h) id⟩
  unfold readyWord
  rw [key]
  exact ⟨fun ⟨s, _, h⟩ => ⟨s, h⟩, fun ⟨s, h⟩ => ⟨s, by cases s <;> simp, h⟩⟩

/-- Two entries of an admitted map's list of fields are apart. -/
theorem allApart_get {l : List (Addr × Word)} (h : allApart l = true) {i j : Nat} (hij : i < j) {x y : Addr × Word}
    (hx : l[i]? = some x) (hy : l[j]? = some y) : apart x y = true := by
  induction l generalizing i j with
  | nil => simp at hx
  | cons z zs ih =>
    simp only [allApart, Bool.and_eq_true, List.all_eq_true] at h
    cases j with
    | zero => omega
    | succ j =>
      cases i with
      | zero =>
        simp only [List.getElem?_cons_zero, Option.some.injEq] at hx
        subst hx
        exact h.1 _ (List.mem_of_getElem? (by simpa using hy))
      | succ i => exact ih h.2 (i := i) (j := j) (by omega) (by simpa using hx) (by simpa using hy)

/-- Where a source's ready bit stands among the fields of a map. -/
def readyIndex : ClockSource → Nat
  | .hsi => 22
  | .hse => 23
  | .pll => 24
  | .pllsai => 25
  | .plli2s => 26
  | .lse => 27
  | .lsi => 28

theorem readyIndex_get (r : RegMap) (s : ClockSource) :
    (storageFields r ++ statusBits r)[readyIndex s]? = some ((r.rdy.get s).addr, (r.rdy.get s).smask) := by
  cases s <;> rfl

theorem switchIndex_get (r : RegMap) :
    (storageFields r ++ statusBits r)[29]? = some (r.cfgAddr, r.sws.smask) := rfl

theorem apart_bit {a : Addr} {v w : Word} (h : apart (a, v) (a, w) = true) (i : Nat) :
    ¬ (v.getLsbD i = true ∧ w.getLsbD i = true) := by
  simp only [apart, bne_self_eq_false, Bool.false_or, beq_iff_eq] at h
  intro hvw
  have e := congrArg (fun v => v.getLsbD i) h
  simp only [BitVec.getLsbD_and, hvw.1, hvw.2] at e
  simp at e

/-- The ready bits of two sources never share a place. -/
theorem ready_bits_apart {r : RegMap} (h : RegMap.wf r = true) {s t : ClockSource} (hst : s ≠ t)
    (ha : (r.rdy.get s).addr = (r.rdy.get t).addr) (i : Nat) :
    ¬ ((r.rdy.get s).smask.getLsbD i = true ∧ (r.rdy.get t).smask.getLsbD i = true) := by
  have hne : readyIndex s ≠ readyIndex t := by revert hst; cases s <;> cases t <;> simp [readyIndex]
  have hA := (RegMap.wf_parts h).2.2.2.2
  rcases Nat.lt_or_gt_of_ne hne with hlt | hlt
  · have := allApart_get hA hlt (readyIndex_get r s) (readyIndex_get r t)
    rw [ha] at this
    exact apart_bit this i
  · have := allApart_get hA hlt (readyIndex_get r t) (readyIndex_get r s)
    rw [ha] at this
    exact fun hh => apart_bit this i ⟨hh.2, hh.1⟩

/-- A ready bit stands in no bit of the switch status. -/
theorem ready_switch_apart {r : RegMap} (h : RegMap.wf r = true) (s : ClockSource) (ha : (r.rdy.get s).addr = r.cfgAddr)
    (i : Nat) : ¬ ((r.rdy.get s).smask.getLsbD i = true ∧ r.sws.smask.getLsbD i = true) := by
  have hlt : readyIndex s < 29 := by cases s <;> decide
  have := allApart_get (RegMap.wf_parts h).2.2.2.2 hlt (readyIndex_get r s) (switchIndex_get r)
  rw [ha] at this
  exact apart_bit this i

theorem ready_smask {r : RegMap} (h : RegMap.wf r = true) (s : ClockSource) :
    (r.rdy.get s).smask.getLsbD (r.rdy.get s).bit = true := by
  simp [BitLoc.smask, ready_bit_lt h s]

theorem switchWord_ready {r : RegMap} (h : RegMap.wf r = true) (s : ClockSource) (v : Word) :
    (switchWord r (r.rdy.get s).addr v).getLsbD (r.rdy.get s).bit = false := by
  unfold switchWord
  split
  · next ha =>
    rw [Field.place_getLsbD, ← Field.smask_getLsbD]
    have := ready_switch_apart h s ha (r.rdy.get s).bit
    rw [ready_smask h s] at this
    simp only [true_and, Bool.not_eq_true] at this
    rw [this, Bool.false_and]
  · exact BitVec.getLsbD_zero

/-- The ready bit a following environment shows: the enable bit, or 0 for the source it withholds (20 R70). -/
theorem followingAnswer_ready {r : RegMap} (h : RegMap.wf r = true) (m : Memory) (s : ClockSource)
    (notReady : Option ClockSource) (c : Bool) :
    (followingAnswer r m (r.rdy.get s).addr notReady c).getLsbD (r.rdy.get s).bit =
      (storedBit m (r.en.get s) && notReady != some s) := by
  unfold followingAnswer
  rw [BitVec.getLsbD_or, switchWord_ready h, Bool.or_false, Bool.eq_iff_iff, readyWord_getLsbD]
  constructor
  · rintro ⟨t, ha, hr, hb⟩
    by_cases hst : t = s
    · subst hst; exact hr
    · exact absurd ⟨hb, ready_smask h s⟩ (ready_bits_apart h hst ha _)
  · exact fun hr => ⟨s, rfl, hr, ready_smask h s⟩

/-- What a poll of a source's ready bit reads under `EnvNominal`: its enable bit (20 R70). -/
theorem nominal_ready {s : State} (h : RegMap.wf s.params.regs = true) (he : s.env = .nominal) (why : Purpose)
    (src : ClockSource) :
    (readValue s why (s.params.regs.rdy.get src).addr).getLsbD (s.params.regs.rdy.get src).bit =
      storedBit s.mem (s.params.regs.en.get src) := by
  rw [readValue_status_bit _ _ _ _ (ready_is_status h src)]
  simp only [envAnswer, he]
  rw [followingAnswer_ready h]
  simp

/-- What a poll of the stuck source's ready bit reads under `EnvStuck`: 0 (20 R70). -/
theorem stuck_ready {s : State} (h : RegMap.wf s.params.regs = true) {src : ClockSource} (he : s.env = .stuck src)
    (why : Purpose) :
    (readValue s why (s.params.regs.rdy.get src).addr).getLsbD (s.params.regs.rdy.get src).bit = false := by
  rw [readValue_status_bit _ _ _ _ (ready_is_status h src)]
  simp only [envAnswer, he]
  rw [followingAnswer_ready h]
  simp

end Sys2Proof.Machine
end

