-- ==== Sys2Proof/Laws/PerInstr.lean ====
section
/-! SUPPORT. Statements made per instruction. Family RowMatch: the encoder's word of an instruction lies in the row that
spec/opcode_table.json gives it (its mask and match, or its pattern of transactions). -/

namespace Sys2Proof.Laws

/-- The row of the opcode table: mask and match. CONFIGURE with reserved bits set matches opc alone (the table's note). -/
def tableRow : Instr → Nat × Nat
  | .oscEnable .. => (0xF1F0, 0x1000)
  | .oscDisable .. => (0xF1F0, 0x2000)
  | .oscWaitReady .. => (0xF1F0, 0x3000)
  | .oscIsReady .. => (0xF1F0, 0x4000)
  | .swSelect .. => (0xF1F0, 0x5000)
  | .swWait .. => (0xF1F0, 0x6000)
  | .profLookup .. => (0xFFF0, 0x7000)
  | .vosSetScale .. => (0xFFF0, 0x8000)
  | .preSetAhb .. => (0xFFF0, 0x9000)
  | .preSetApb1 .. => (0xFFF0, 0x9080)
  | .preSetApb2 .. => (0xFFF0, 0x9100)
  | .pllConfigure .. => (0xFFF0, 0xA000)
  | .flashSetWs .. => (0xFE70, 0xB000)
  | .freqPublish .. => (0xFFF0, 0xC000)
  | .uEnd .. => (0xFFF0, 0xD000)
  | .nop => (0x0000000F, 0x00000000)
  | .configure _ _ lo hi => if lo = 0 ∧ hi = 0 then (0xFF0000FF, 0x1) else (0xF, 0x1)
  | .cmdReserved2 => (0x0000000F, 0x00000002)
  | .cmdReserved3 => (0x0000000F, 0x00000003)
  | .cmdReserved4 => (0x0000000F, 0x00000004)
  | .cmdReserved5 => (0x0000000F, 0x00000005)
  | .cmdReserved6 => (0x0000000F, 0x00000006)
  | .cmdReserved7 => (0x0000000F, 0x00000007)
  | .cmdReserved8 => (0x0000000F, 0x00000008)
  | .cmdReserved9 => (0x0000000F, 0x00000009)
  | .cmdReserved10 => (0x0000000F, 0x0000000A)
  | .cmdReserved11 => (0x0000000F, 0x0000000B)
  | .cmdReserved12 => (0x0000000F, 0x0000000C)
  | .cmdReserved13 => (0x0000000F, 0x0000000D)
  | .cmdReserved14 => (0x0000000F, 0x0000000E)
  | .cmdReserved15 => (0x0000000F, 0x0000000F)
  | .rdStatus => (0x3C, 0x04)
  | .rdArgs => (0x3C, 0x08)
  | .rdPollLimit => (0x3C, 0x0C)
  | .wrPollLimit .. => (0x3C, 0x0C)
  | .qAhbHz => (0x3C, 0x10)
  | .qApb1Hz => (0x3C, 0x14)
  | .qApb2Hz => (0x3C, 0x18)
  | .qAhbMs => (0x3C, 0x1C)
  | .qAhbUs => (0x3C, 0x20)
  | .qApb1Ms => (0x3C, 0x24)
  | .qApb1Us => (0x3C, 0x28)
  | .qApb2Ms => (0x3C, 0x2C)
  | .qApb2Us => (0x3C, 0x30)
  | .rfRead .. => (0, 0)
  | .rfWrite .. => (0, 0)
  | .rfSetBits .. => (0, 0)
  | .rfClearBits .. => (0, 0)
  | .rfTest .. => (0, 0)
  | .rfMaskedUpdate .. => (0, 0)

/-- The pattern of a BUS row: the `we` value of each transaction (30 R99). -/
def busPattern : Instr → List Bool
  | .rfRead .. => [false]
  | .rfWrite .. => [true]
  | .rfSetBits .. => [false, true]
  | .rfClearBits .. => [false, true]
  | .rfTest .. => [false]
  | .rfMaskedUpdate .. => [false, true]
  | _ => []

/-- The encoding lies in the instruction's row. -/
def RowMatch.Statement (i : Instr) : Prop :=
  match encode i with
  | .micro w => w.toNat &&& (tableRow i).1 = (tableRow i).2
  | .command w => w.toNat &&& (tableRow i).1 = (tableRow i).2
  | .hostRead r => (4 * r.toNat) &&& (tableRow i).1 = (tableRow i).2
  | .hostWrite r _ => (4 * r.toNat) &&& (tableRow i).1 = (tableRow i).2
  | .bus p => p = busPattern i

namespace RowMatch

theorem oscEnable (src : ClockSource) (mark : Mark) : Statement (.oscEnable src mark) := by
  cases src <;> rcases mark with st | _ <;> first | rfl | (cases st <;> rfl)

theorem oscDisable (src : ClockSource) (mark : Mark) : Statement (.oscDisable src mark) := by
  cases src <;> rcases mark with st | _ <;> first | rfl | (cases st <;> rfl)

theorem oscWaitReady (src : ClockSource) (mark : Mark) : Statement (.oscWaitReady src mark) := by
  cases src <;> rcases mark with st | _ <;> first | rfl | (cases st <;> rfl)

theorem oscIsReady (src : ClockSource) (mark : Mark) : Statement (.oscIsReady src mark) := by
  cases src <;> rcases mark with st | _ <;> first | rfl | (cases st <;> rfl)

theorem swSelect (src : ClockSource) (mark : Mark) : Statement (.swSelect src mark) := by
  cases src <;> rcases mark with st | _ <;> first | rfl | (cases st <;> rfl)

theorem swWait (src : ClockSource) (mark : Mark) : Statement (.swWait src mark) := by
  cases src <;> rcases mark with st | _ <;> first | rfl | (cases st <;> rfl)

theorem profLookup (mark : Mark) : Statement (.profLookup mark) := by
  rcases mark with st | _ <;> first | rfl | (cases st <;> rfl)

theorem vosSetScale (mark : Mark) : Statement (.vosSetScale mark) := by
  rcases mark with st | _ <;> first | rfl | (cases st <;> rfl)

theorem preSetAhb (mark : Mark) : Statement (.preSetAhb mark) := by
  rcases mark with st | _ <;> first | rfl | (cases st <;> rfl)

theorem preSetApb1 (mark : Mark) : Statement (.preSetApb1 mark) := by
  rcases mark with st | _ <;> first | rfl | (cases st <;> rfl)

theorem preSetApb2 (mark : Mark) : Statement (.preSetApb2 mark) := by
  rcases mark with st | _ <;> first | rfl | (cases st <;> rfl)

theorem pllConfigure (mark : Mark) : Statement (.pllConfigure mark) := by
  rcases mark with st | _ <;> first | rfl | (cases st <;> rfl)

theorem flashSetWs (ic : Bool) (dc : Bool) (mark : Mark) : Statement (.flashSetWs ic dc mark) := by
  cases ic <;> cases dc <;> rcases mark with st | _ <;> first | rfl | (cases st <;> rfl)

theorem freqPublish (mark : Mark) : Statement (.freqPublish mark) := by
  rcases mark with st | _ <;> first | rfl | (cases st <;> rfl)

theorem uEnd (mark : Mark) : Statement (.uEnd mark) := by
  rcases mark with st | _ <;> first | rfl | (cases st <;> rfl)

theorem nop : Statement (.nop) := by rfl

theorem configure (crystal target : BitVec 8) (rsvLo : BitVec 4) (rsvHi : BitVec 8) :
    Statement (.configure crystal target rsvLo rsvHi) := by
  have opc : (commandWord 1 crystal target rsvLo rsvHi).toNat &&& 0xF = 0x1 := by
    have h : (commandWord 1 crystal target rsvLo rsvHi).extractLsb' 0 4 = 1#4 := by
      unfold commandWord
      exact BitVec.extractLsb'_append_eq_right
    have h := congrArg BitVec.toNat h
    simp only [BitVec.extractLsb'_toNat, Nat.shiftRight_zero] at h
    rw [show (0xF : Nat) = 2 ^ 4 - 1 from rfl, Nat.and_two_pow_sub_one_eq_mod]
    simpa using h
  unfold Statement
  simp only [encode, tableRow]
  split
  · next h =>
    obtain ⟨rfl, rfl⟩ := h
    have e : (commandWord 1 crystal target 0 0) &&& 0xFF0000FF#32 = 0x1#32 := by
      unfold commandWord
      refine BitVec.eq_of_getLsbD_eq fun i hi => ?_
      have hm : ∀ i : Fin 32, (0xFF0000FF#32).getLsbD i.val = (decide (i.val < 8) || decide (24 ≤ i.val)) := by decide
      have hm := hm ⟨i, hi⟩
      simp only at hm
      rw [BitVec.getLsbD_and, hm]
      simp only [BitVec.getLsbD_append]
      by_cases h4 : i < 4
      · simp [h4, BitVec.getLsbD_one, show i < 8 by omega]
      · by_cases h8 : i < 8
        · simp [h4, h8, show i - 4 < 4 by omega, BitVec.getLsbD_one, show i ≠ 0 by omega]
        · by_cases h24 : 24 ≤ i
          · simp [h4, show ¬ i - 4 < 4 by omega, show ¬ i - 4 - 4 < 8 by omega, show ¬ i - 4 - 4 - 8 < 8 by omega,
              BitVec.getLsbD_one, show i ≠ 0 by omega]
          · simp [h8, h24, BitVec.getLsbD_one, show i ≠ 0 by omega]
    have e := congrArg BitVec.toNat e
    simpa [BitVec.toNat_and] using e
  · exact opc

theorem cmdReserved2 : Statement (.cmdReserved2) := by rfl

theorem cmdReserved3 : Statement (.cmdReserved3) := by rfl

theorem cmdReserved4 : Statement (.cmdReserved4) := by rfl

theorem cmdReserved5 : Statement (.cmdReserved5) := by rfl

theorem cmdReserved6 : Statement (.cmdReserved6) := by rfl

theorem cmdReserved7 : Statement (.cmdReserved7) := by rfl

theorem cmdReserved8 : Statement (.cmdReserved8) := by rfl

theorem cmdReserved9 : Statement (.cmdReserved9) := by rfl

theorem cmdReserved10 : Statement (.cmdReserved10) := by rfl

theorem cmdReserved11 : Statement (.cmdReserved11) := by rfl

theorem cmdReserved12 : Statement (.cmdReserved12) := by rfl

theorem cmdReserved13 : Statement (.cmdReserved13) := by rfl

theorem cmdReserved14 : Statement (.cmdReserved14) := by rfl

theorem cmdReserved15 : Statement (.cmdReserved15) := by rfl

theorem rdStatus : Statement (.rdStatus) := by rfl

theorem rdArgs : Statement (.rdArgs) := by rfl

theorem rdPollLimit : Statement (.rdPollLimit) := by rfl

theorem wrPollLimit (w : Word) : Statement (.wrPollLimit w) := by
  show 4 * (3#4).toNat &&& 0x3C = 0x0C
  rfl

theorem qAhbHz : Statement (.qAhbHz) := by rfl

theorem qApb1Hz : Statement (.qApb1Hz) := by rfl

theorem qApb2Hz : Statement (.qApb2Hz) := by rfl

theorem qAhbMs : Statement (.qAhbMs) := by rfl

theorem qAhbUs : Statement (.qAhbUs) := by rfl

theorem qApb1Ms : Statement (.qApb1Ms) := by rfl

theorem qApb1Us : Statement (.qApb1Us) := by rfl

theorem qApb2Ms : Statement (.qApb2Ms) := by rfl

theorem qApb2Us : Statement (.qApb2Us) := by rfl

theorem rfRead (a : Addr) : Statement (.rfRead a) := by rfl

theorem rfWrite (a : Addr) (v : Word) : Statement (.rfWrite a v) := by rfl

theorem rfSetBits (a : Addr) (k : Word) : Statement (.rfSetBits a k) := by rfl

theorem rfClearBits (a : Addr) (k : Word) : Statement (.rfClearBits a k) := by rfl

theorem rfTest (a : Addr) (k : Word) : Statement (.rfTest a k) := by rfl

theorem rfMaskedUpdate (a : Addr) (m : Word) (s : Nat) (v : Nat) : Statement (.rfMaskedUpdate a m s v) := by rfl

end RowMatch

end Sys2Proof.Laws
end

