-- ==== Sys2Proof/Laws/Step.lean ====
section
/-! SUPPORT. Everything a step can do, said once: what a micro-operation does to the CTO and to the rest, what a host
instruction does, and the six ways of a step. -/

namespace Sys2Proof.Machine

/-- The decoder of format U answers micro-operations only. -/
theorem decodeU_format {sw w i} (h : decodeU sw w = .ok i) : i.format = .u := by
  unfold decodeU at h
  split at h
  · cases h
  · split at h
    · cases h
    · unfold decodeOp at h
      simp only [decodeWithSource, decodePlain, decodeNoSource, decodeSelectable] at h
      (repeat' split at h) <;> first
        | (cases h; done)
        | (cases h; rfl)

/-- The mark of a micro-operation. -/
def markOf : Instr → Mark
  | .oscEnable _ m | .oscDisable _ m | .oscWaitReady _ m | .oscIsReady _ m | .swSelect _ m | .swWait _ m
  | .profLookup m | .vosSetScale m | .preSetAhb m | .preSetApb1 m | .preSetApb2 m | .pllConfigure m
  | .flashSetWs _ _ m | .freqPublish m | .uEnd m => m
  | _ => .keep

/-- The readers of the profile latch (10 R25). -/
def readsProfile : Instr → Bool
  | .vosSetScale _ | .preSetAhb _ | .preSetApb1 _ | .preSetApb2 _ | .pllConfigure _ | .flashSetWs .. | .freqPublish _ => true
  | _ => false

theorem named_of_mem {r : RegMap} {a} (h : a ∈ namedAddrs r) : named r a = true := by simpa [named] using h

/-- What the micro-operation `i`, run from `s`, can leave the CTO as. -/
inductive MicroCto (i : Instr) (s : State) (c' : Cto) : Prop
  | half (v : Word) : s.cto.ph = false → c' = { s.cto with ph := true, tmp := some v } → MicroCto i s c'
  | done (prof : Option ClockScaleProfile) (bank : Bank) (rdy : Bool) :
      (prof = s.cto.prof ∨ ∃ m, i = .profLookup m ∧ prof = some (selectedProfile s) ∧
        badProfile s.params.codes (selectedProfile s) = false) →
      (bank = s.cto.bank ∨ ∃ m p, i = .freqPublish m ∧ s.cto.prof = some p ∧
        bank = publishedBank s.params s.cto.crystalCode p) →
      (∀ m, i = .profLookup m → prof.isSome) →
      (∀ m, i = .freqPublish m → ∀ p, s.cto.prof = some p → bank = publishedBank s.params s.cto.crystalCode p) →
      (∀ m, i ≠ .uEnd m) →
      c' = (Cto.complete { s.cto with prof := prof, bank := bank, rdy := rdy } (markOf i)) → MicroCto i s c'
  | raise (f c) : (f = .noProfile → s.cto.prof = none ∧ readsProfile i = true) →
      (f = .illegalUop → ∃ src m, (i = .swSelect src m ∨ i = .swWait src m) ∧ s.params.codes.sw.get src = none) →
      (∀ m, i ≠ .uEnd m) →
      c' = (Cto.raise { s.cto with pollcnt := c } f) → MicroCto i s c'
  | poll (c) : (∀ m, i ≠ .uEnd m) → c' = { s.cto with pollcnt := c } → MicroCto i s c'
  | fin (m) : i = .uEnd m → c' = (s.cto.finish m) → MicroCto i s c'

/-- What the micro-operation `i` can do from `s` to `t`. -/
structure MicroStep (i : Instr) (s t : State) : Prop where
  params : t.params = s.params
  urom : t.urom = s.urom
  agenda : t.agenda = s.agenda
  mem : Memory.wf s.mem = true → Memory.wf t.mem = true
  trace : t.trace = s.trace ∨ ∃ x : Txn, t.trace = s.trace ++ [x] ∧ x.upc = s.cto.upc ∧ named s.params.regs x.addr = true
  cto : MicroCto i s t.cto

theorem MicroStep.rmw {i s a f m} (h : named s.params.regs a = true) (hm : markOf i = m)
    (h1 : ∀ m, i ≠ .uEnd m) (h2 : ∀ m, i ≠ .profLookup m) (h3 : ∀ m, i ≠ .freqPublish m) :
    MicroStep i s (Machine.rmw s a f (complete m)) := by
  subst hm
  unfold Machine.rmw
  split
  · exact ⟨rfl, rfl, rfl, fun h => Memory.write_wf _ _ _ _ h, Or.inr ⟨_, rfl, rfl, h⟩,
          MicroCto.done s.cto.prof s.cto.bank s.cto.rdy (.inl rfl) (.inl rfl) (fun m e => absurd e (h2 m)) (fun m e => absurd e (h3 m)) h1 rfl⟩
  · next hp => exact ⟨rfl, rfl, rfl, fun h => h, Or.inr ⟨_, rfl, rfl, h⟩, MicroCto.half _ (by simpa using hp) rfl⟩

theorem MicroStep.poll {i s w a o f m} (h : named s.params.regs a = true) (hm : markOf i = m)
    (hf : f ≠ .noProfile ∧ f ≠ .illegalUop) (h1 : ∀ m, i ≠ .uEnd m) (h2 : ∀ m, i ≠ .profLookup m)
    (h3 : ∀ m, i ≠ .freqPublish m) : MicroStep i s (Machine.poll s w a o f m) := by
  subst hm
  by_cases ho : o (readValue s w a) = true
  · rw [poll_ok _ _ _ _ _ _ ho]
    exact ⟨rfl, rfl, rfl, fun h => h, Or.inr ⟨_, rfl, rfl, h⟩,
          MicroCto.done s.cto.prof s.cto.bank s.cto.rdy (.inl rfl) (.inl rfl) (fun m e => absurd e (h2 m)) (fun m e => absurd e (h3 m)) h1 rfl⟩
  · rw [poll_failed _ _ _ _ _ _ (by simpa using ho)]
    refine ⟨rfl, rfl, rfl, fun h => h, Or.inr ⟨_, rfl, rfl, h⟩, ?_⟩
    show MicroCto i s (s.cto.failedPoll f)
    by_cases hc : s.cto.limit ≠ 0 ∧ s.cto.pollcnt + 1 = s.cto.limit
    · rw [Cto.failedPoll_timeout _ _ hc]; exact MicroCto.raise f _ (fun e => absurd e hf.1) (fun e => absurd e hf.2) h1 rfl
    · rw [Cto.failedPoll_again _ _ hc]; exact MicroCto.poll _ h1 rfl

theorem MicroStep.same_raise {i s f} (h1 : ∀ m, i ≠ .uEnd m)
    (hn : f = .noProfile → s.cto.prof = none ∧ readsProfile i = true)
    (hi : f = .illegalUop → ∃ src m, (i = .swSelect src m ∨ i = .swWait src m) ∧ s.params.codes.sw.get src = none) :
    MicroStep i s (raise f s) :=
  ⟨rfl, rfl, rfl, fun h => h, Or.inl rfl, MicroCto.raise f s.cto.pollcnt hn hi h1 rfl⟩

/-- Every micro-operation that answers a next state does so. -/
theorem exec_micro {i s t} (hi : i.format = .u) (h : exec i s = .next t) : MicroStep i s t := by
  cases i <;> simp only [Instr.format, reduceCtorEq] at hi <;>
    simp only [exec, execOscEnable, execOscDisable, execOscWaitReady, execOscIsReady, execSwSelect, execSwWait,
      execProfLookup, execVosSetScale, execPreSetAhb, execPreSetApb1, execPreSetApb2, execPllConfigure, execFlashSetWs,
      execFreqPublish, execEnd, setPrescaler, withProfile, withSwCode, Host.Outcome.next.injEq] at h <;>
    subst h
  case oscEnable src m => exact MicroStep.rmw (named_of_mem (enable_named _ _)) rfl (by simp) (by simp) (by simp)
  case oscDisable src m => exact MicroStep.rmw (named_of_mem (enable_named _ _)) rfl (by simp) (by simp) (by simp)
  case oscWaitReady src m =>
    exact MicroStep.poll (named_of_mem (ready_named _ _)) rfl (by simp) (by simp) (by simp) (by simp)
  case oscIsReady src m =>
    exact ⟨rfl, rfl, rfl, fun h => h, Or.inr ⟨_, rfl, rfl, named_of_mem (ready_named _ _)⟩,
          MicroCto.done s.cto.prof s.cto.bank _ (.inl rfl) (.inl rfl) (by simp) (by simp) (by simp) rfl⟩
  case swSelect src m =>
    split
    · next h => exact MicroStep.same_raise (by simp) (by simp) (fun _ => ⟨src, m, .inl rfl, h⟩)
    · exact MicroStep.rmw (named_of_mem (cfg_named _)) rfl (by simp) (by simp) (by simp)
  case swWait src m =>
    split
    · next h => exact MicroStep.same_raise (by simp) (by simp) (fun _ => ⟨src, m, .inr rfl, h⟩)
    · exact MicroStep.poll (named_of_mem (cfg_named _)) rfl (by simp) (by simp) (by simp) (by simp)
  case profLookup m =>
    split
    · exact MicroStep.same_raise (by simp) (by simp) (by simp)
    · next hb => exact ⟨rfl, rfl, rfl, fun h => h, Or.inl rfl,
          MicroCto.done _ s.cto.bank s.cto.rdy (.inr ⟨m, rfl, rfl, by simpa using hb⟩) (.inl rfl) (by simp) (by simp) (by simp) rfl⟩
  case vosSetScale m =>
    split
    · next h => exact MicroStep.same_raise (by simp) (fun _ => ⟨h, rfl⟩) (by simp)
    · exact MicroStep.rmw (named_of_mem (pwr_named _)) rfl (by simp) (by simp) (by simp)
  case preSetAhb m =>
    split
    · next h => exact MicroStep.same_raise (by simp) (fun _ => ⟨h, rfl⟩) (by simp)
    · exact MicroStep.rmw (named_of_mem (cfg_named _)) rfl (by simp) (by simp) (by simp)
  case preSetApb1 m =>
    split
    · next h => exact MicroStep.same_raise (by simp) (fun _ => ⟨h, rfl⟩) (by simp)
    · exact MicroStep.rmw (named_of_mem (cfg_named _)) rfl (by simp) (by simp) (by simp)
  case preSetApb2 m =>
    split
    · next h => exact MicroStep.same_raise (by simp) (fun _ => ⟨h, rfl⟩) (by simp)
    · exact MicroStep.rmw (named_of_mem (cfg_named _)) rfl (by simp) (by simp) (by simp)
  case flashSetWs ic dc m =>
    split
    · next h => exact MicroStep.same_raise (by simp) (fun _ => ⟨h, rfl⟩) (by simp)
    · exact MicroStep.rmw (named_of_mem (flash_named _)) rfl (by simp) (by simp) (by simp)
  case pllConfigure m =>
    split
    · next h => exact MicroStep.same_raise (by simp) (fun _ => ⟨h, rfl⟩) (by simp)
    · split
      · exact ⟨rfl, rfl, rfl, fun h => Memory.write_wf _ _ _ _ h, Or.inr ⟨_, rfl, rfl, named_of_mem (pllcfg_named _)⟩,
          MicroCto.done s.cto.prof s.cto.bank s.cto.rdy (.inl rfl) (.inl rfl) (by simp) (by simp) (by simp) rfl⟩
      · next hp =>
        unfold pllTest
        simp only
        split
        · exact ⟨rfl, rfl, rfl, fun h => h, Or.inr ⟨_, rfl, rfl, named_of_mem (enable_named _ .pll)⟩,
            MicroCto.raise _ s.cto.pollcnt (by simp) (by simp) (by simp) rfl⟩
        · exact ⟨rfl, rfl, rfl, fun h => h, Or.inr ⟨_, rfl, rfl, named_of_mem (enable_named _ .pll)⟩,
            MicroCto.half _ (by simpa using hp) rfl⟩
  case freqPublish m =>
    split
    · next h => exact MicroStep.same_raise (by simp) (fun _ => ⟨h, rfl⟩) (by simp)
    · next p hp => exact ⟨rfl, rfl, rfl, fun h => h, Or.inl rfl,
          MicroCto.done s.cto.prof _ s.cto.rdy (.inl rfl) (.inr ⟨m, p, rfl, hp, rfl⟩) (by simp) (fun m _ q hq => by rw [hp] at hq; cases hq; rfl) (by simp) rfl⟩
  case uEnd m => exact ⟨rfl, rfl, rfl, fun h => h, Or.inl rfl, MicroCto.fin m rfl rfl⟩

/-- Every command word decodes to an instruction of format H. -/
theorem decodeH_format (w) : (decodeH w).format = .h := by unfold decodeH; split <;> rfl

/-- What a host instruction, run from `s`, can leave the CTO as. -/
inductive HostCto (s : State) (c' : Cto) : Prop
  | verdict (v) : c' = { s.cto with cmderr := v } → HostCto s c'
  | limit (v) : c' = { s.cto with pollLimit := v } → HostCto s c'
  | same : c' = s.cto → HostCto s c'
  | accept (c t) : s.cto.busy = false → s.cto.fault = false → c.toNat < s.params.ncrystal → t.toNat < s.params.ntarget → c' = (s.cto.accept c t) → HostCto s c'

/-- What a host instruction can do from `s` to `t`. -/
structure HostStep (s t : State) : Prop where
  params : t.params = s.params
  urom : t.urom = s.urom
  agenda : t.agenda = s.agenda
  mem : t.mem = s.mem
  trace : t.trace = s.trace
  cto : HostCto s t.cto

/-- Every host instruction does so. -/
theorem exec_host {i s t} (hi : i.format = .h ∨ i.format = .hq) (h : exec i s = .next t) : HostStep s t := by
  cases i <;> simp only [Instr.format, reduceCtorEq, or_self] at hi <;>
    first
    | (cases h; exact ⟨rfl, rfl, rfl, rfl, rfl, HostCto.same rfl⟩)
    | (cases h; exact ⟨rfl, rfl, rfl, rfl, rfl, HostCto.verdict _ rfl⟩)
    | (cases h; exact ⟨rfl, rfl, rfl, rfl, rfl, HostCto.limit _ rfl⟩)
    | skip
  simp only [exec, execConfigure, Host.Outcome.next.injEq] at h
  subst h
  split
  · exact ⟨rfl, rfl, rfl, rfl, rfl, HostCto.verdict _ rfl⟩
  · split
    · exact ⟨rfl, rfl, rfl, rfl, rfl, HostCto.verdict _ rfl⟩
    · next h1 h2 =>
      simp [badConfigureArgs] at h1 h2
      exact ⟨rfl, rfl, rfl, rfl, rfl, HostCto.accept _ _ h1.1 h1.2 h2.1.2 h2.2 rfl⟩

/-- The six ways of a step from `s` to `t`, each with the turn it takes, but for a step that changes nothing. -/
inductive StepCases (s t : State) : Prop
  | idle : t = { s with agenda := s.agenda.tail } → StepCases s t
  | illegal (r) : (s.agenda.head? = none ∨ s.agenda.head? = some .sequencer) → s.cto.busy = true → s.cto.fault = false →
      decodeU s.params.codes.sw (fetch s) = .error r → t = raise .illegalUop { s with agenda := s.agenda.tail } → StepCases s t
  | micro (i) : (s.agenda.head? = none ∨ s.agenda.head? = some .sequencer) → s.cto.busy = true → s.cto.fault = false →
      decodeU s.params.codes.sw (fetch s) = .ok i → MicroStep i { s with agenda := s.agenda.tail } t → StepCases s t
  | host (a) : s.agenda.head? = some (.host a) → HostStep { s with agenda := s.agenda.tail } t → StepCases s t
  | reset : s.agenda.head? = some .reset → t = resetCto { s with agenda := s.agenda.tail } → StepCases s t
  | foreign (a v) : s.agenda.head? = some (.foreignWrite a v) → s.cto.busy = false →
      t = { s with agenda := s.agenda.tail, mem := s.mem.write s.params.regs a v } → StepCases s t

/-- Every step that answers a next state went one of the six ways. -/
theorem step_cases {s t} (h : step s = .next t) : StepCases s t := by
  have key : (s.agenda.head? = none ∨ s.agenda.head? = some .sequencer) → ∀ s' : State, s'.cto = s.cto → s'.params = s.params → s'.urom = s.urom → s' = { s with agenda := s.agenda.tail } → sequencerTurn s' = .next t → StepCases s t := by
    intro hturn s' h1 h2 h3 h4 h
    have hf : fetch s' = fetch s := by subst h4; rfl
    unfold sequencerTurn at h
    rw [hf, h2] at h
    split at h
    · next hr =>
      rw [h1] at hr
      simp [Cto.running] at hr
      split at h
      · next i hd => 
         have := exec_micro (decodeU_format hd) h
         subst h4
         exact StepCases.micro i hturn hr.1 hr.2 hd this
      · next r hd => cases h; subst h4; exact StepCases.illegal r hturn hr.1 hr.2 hd rfl
    · cases h; exact StepCases.idle h4
  unfold step turn at h
  split at h
  · split at h
    · next ha => exact key (.inl (by rw [ha]; rfl)) s rfl rfl rfl (by cases s; simp at ha; subst ha; rfl) h
    · next tn rest ha =>
      have ht : s.agenda.tail = rest := by rw [ha]; rfl
      rw [← ht] at h
      cases tn with
      | sequencer => exact key (.inr (by rw [ha]; rfl)) { s with agenda := s.agenda.tail } rfl rfl rfl rfl h
      | host a =>
        simp only [runTurn, hostTurn] at h
        split at h
        · cases h
        · next e he =>
          have hio : ∀ i, decode s.params.codes.sw e = .ok i → i.format = .h ∨ i.format = .hq := by
            intro i hd
            unfold hostEncoding at he
            split at he
            · simp only [Option.some.injEq] at he
              subst he
              split at hd
              · simp only [decode, decodeHostWrite] at hd
                split at hd
                · cases hd; exact .inl (decodeH_format _)
                · cases hd; exact .inr rfl
                · cases hd
              · simp only [decode, decodeHostRead] at hd
                split at hd <;> first | (cases hd; done) | (cases hd; exact .inr rfl)
            · cases he
          split at h
          · next i hd => exact StepCases.host a (by rw [ha]; rfl) (exec_host (hio i hd) h)
          · cases h; exact StepCases.host a (by rw [ha]; rfl) ⟨rfl, rfl, rfl, rfl, rfl, HostCto.same rfl⟩
          · cases h; exact StepCases.idle rfl
      | reset => cases h; exact StepCases.reset (by rw [ha]; rfl) rfl
      | foreignWrite a v =>
        simp only [runTurn, foreignTurn] at h
        split at h
        · cases h
        · next hb =>
          split at h
          · cases h; exact StepCases.foreign a v (by rw [ha]; rfl) (by simpa using hb) rfl
          · cases h
  · cases h

/-- The definition of a run of one more step. -/
theorem run_unfold (M : Host.Core) (n : Nat) (s : M.State) : M.run (n + 1) s =
    match M.step s with
    | .next s' => M.run n s'
    | .fault r => .fault r
    | .refused r => .refused r := rfl

/-- One step of a run. -/
theorem run_succ {s t : State} (n : Nat) (h : step s = .next t) :
    Host.Core.run Sys2Proof.core (n + 1) s = Host.Core.run Sys2Proof.core n t := by
  have h' : Sys2Proof.core.step s = .next t := h
  exact (run_unfold Sys2Proof.core n s).trans (by rw [h'])

/-- A run of one more step that answers a next state begins with a step that does. -/
theorem run_succ_inv {s t : State} {n : Nat} (h : Host.Core.run Sys2Proof.core (n + 1) s = .next t) :
    ∃ u, step s = .next u ∧ Host.Core.run Sys2Proof.core n u = .next t := by
  have h := (run_unfold Sys2Proof.core n s).symm.trans h
  split at h
  · next u hu => exact ⟨u, hu, h⟩
  · cases h
  · cases h

end Sys2Proof.Machine
end

