-- ==== Sys2Proof/Tests/Slice0.lean ====
section
/-! SUPPORT. The model's own tests: the well-formedness checks, words written out from spec/30_encoding.md and
spec/95_test_vectors.md part 3, single steps with results from that file, and a witness for every statement with hypotheses. -/

namespace Sys2Proof.Tests

open Sys2Proof Sys2Proof.Machine Sys2Proof.Safety

/-! ## Well-formedness -/

/-- Each check refuses a term that breaks it alone (30 R94, R101, R99, 20 R61). -/
theorem test_illFormed_refused :
    WellFormed p0Codes.sw (.oscEnable .hsi (.enter .idle)) = false ∧
    WellFormed p0Codes.sw (.uEnd (.enter .idle)) = false ∧
    WellFormed p0Codes.sw (.swSelect .pllsai .keep) = false ∧
    WellFormed p0Codes.sw (.swWait .lsi .keep) = false ∧
    WellFormed p0Codes.sw (.rfRead 0x40023801) = false ∧
    WellFormed p0Codes.sw (.rfMaskedUpdate 0x40023802 7 10 5) = false ∧
    WellFormed p0Codes.sw (.rfMaskedUpdate 0x40023804 5 10 5) = false ∧
    WellFormed p0Codes.sw (.rfMaskedUpdate 0x40023804 7 30 5) = false := by decide

/-- And accepts terms that break none. -/
theorem test_wellFormed_accepted :
    WellFormed p0Codes.sw (.oscEnable .lsi .keep) = true ∧
    WellFormed p0Codes.sw (.swSelect .pll (.enter .hsiDisabled)) = true ∧
    WellFormed p0Codes.sw (.rfRead 0x40023800) = true ∧
    WellFormed p0Codes.sw (.rfMaskedUpdate 0x40023804 7 29 13) = true := by decide

/-- The configuration T0 is admitted; one with an overlap, a status bit in a written field, a misaligned address or an empty
enumeration is not (00 R8, R9). -/
theorem test_configurations :
    paramsWf t0 = true ∧
    paramsWf { t0 with regs := { p0RegMap with hpre := ⟨1, 4⟩ } } = false ∧
    paramsWf { t0 with regs := { p0RegMap with sw := ⟨2, 2⟩ } } = false ∧
    paramsWf { t0 with regs := { p0RegMap with cfgAddr := 0x40023809 } } = false ∧
    paramsWf { t0 with regs := { p0RegMap with vos := ⟨31, 2⟩ } } = false ∧
    paramsWf { t0 with ncrystal := 0, crystalHz := [], profiles := [] } = false := by decide

/-! ## Decoding: words from 95 part 3 ENC, 30 R96 to R98 -/

theorem test_decode_sources :
    decodeU p0Codes.sw 0x1001 = .ok (.oscEnable .hsi (.enter .hsiEnabled)) ∧
    decodeU p0Codes.sw 0x1203 = .ok (.oscEnable .hse (.enter .hseEnabled)) ∧
    decodeU p0Codes.sw 0x1C0F = .ok (.oscEnable .lsi .keep) ∧
    decodeU p0Codes.sw 0x160F = .ok (.oscEnable .pllsai .keep) ∧
    decodeU p0Codes.sw 0x180F = .ok (.oscEnable .plli2s .keep) ∧
    decodeU p0Codes.sw 0x220F = .ok (.oscDisable .hse .keep) ∧
    decodeU p0Codes.sw 0x3A0F = .ok (.oscWaitReady .lse .keep) ∧
    decodeU p0Codes.sw 0x3C0F = .ok (.oscWaitReady .lsi .keep) ∧
    decodeU p0Codes.sw 0x400F = .ok (.oscIsReady .hsi .keep) ∧
    decodeU p0Codes.sw 0x440F = .ok (.oscIsReady .pll .keep) ∧
    decodeU p0Codes.sw 0x520F = .ok (.swSelect .hse .keep) ∧
    decodeU p0Codes.sw 0x6002 = .ok (.swWait .hsi (.enter .hsiSelected)) := by decide

theorem test_decode_others :
    decodeU p0Codes.sw 0x700F = .ok (.profLookup .keep) ∧
    decodeU p0Codes.sw 0x8005 = .ok (.vosSetScale (.enter .voltageConfigured)) ∧
    decodeU p0Codes.sw 0x900F = .ok (.preSetAhb .keep) ∧
    decodeU p0Codes.sw 0x908F = .ok (.preSetApb1 .keep) ∧
    decodeU p0Codes.sw 0x910F = .ok (.preSetApb2 .keep) ∧
    decodeU p0Codes.sw 0xA007 = .ok (.pllConfigure (.enter .pllConfigured)) ∧
    decodeU p0Codes.sw 0xB00F = .ok (.flashSetWs false false .keep) ∧
    decodeU p0Codes.sw 0xB08A = .ok (.flashSetWs true false (.enter .flashConfigured)) ∧
    decodeU p0Codes.sw 0xB10A = .ok (.flashSetWs false true (.enter .flashConfigured)) ∧
    decodeU p0Codes.sw 0xB18A = .ok (.flashSetWs true true (.enter .flashConfigured)) ∧
    decodeU p0Codes.sw 0xC00C = .ok (.freqPublish (.enter .frequenciesPublished)) ∧
    decodeU p0Codes.sw 0xD00D = .ok (.uEnd (.enter .hsiDisabled)) := by decide

theorem test_decode_illegal :
    decodeU p0Codes.sw 0x0000 = .error .mark ∧ decodeU p0Codes.sw 0x000F = .error .opcode ∧
    decodeU p0Codes.sw 0xE00F = .error .opcode ∧ decodeU p0Codes.sw 0xF00F = .error .opcode ∧
    decodeU p0Codes.sw 0xFFFF = .error .reservedBits ∧ decodeU p0Codes.sw 0x1000 = .error .mark ∧
    decodeU p0Codes.sw 0x100E = .error .mark ∧ decodeU p0Codes.sw 0x1011 = .error .reservedBits ∧
    decodeU p0Codes.sw 0x1081 = .error .selNotZero ∧ decodeU p0Codes.sw 0x1E01 = .error .noSuchSource ∧
    decodeU p0Codes.sw 0x560F = .error .notSelectable ∧ decodeU p0Codes.sw 0x6C0F = .error .notSelectable ∧
    decodeU p0Codes.sw 0x708F = .error .selNotZero ∧ decodeU p0Codes.sw 0xD20F = .error .srcNotZero ∧
    decodeU p0Codes.sw 0x918F = .error .noSuchBus ∧ decodeU p0Codes.sw 0xB20F = .error .srcNotZero := by decide

theorem test_decode_commands :
    decodeH 0x00000000 = .nop ∧ decodeH 0xFFFFFFF0 = .nop ∧ decodeH 0x00000001 = .configure 0 0 0 0 ∧
    decodeH 0x00010101 = .configure 1 1 0 0 ∧ decodeH 0x00000011 = .configure 0 0 1 0 ∧
    decodeH 0x01000001 = .configure 0 0 0 1 ∧ decodeH 0x00020001 = .configure 0 2 0 0 ∧
    decodeH 0x00030201 = .configure 2 3 0 0 := by decide

theorem test_decode_reserved_commands :
    decodeH 2 = .cmdReserved2 ∧ decodeH 3 = .cmdReserved3 ∧ decodeH 4 = .cmdReserved4 ∧ decodeH 5 = .cmdReserved5 ∧
    decodeH 6 = .cmdReserved6 ∧ decodeH 7 = .cmdReserved7 ∧ decodeH 8 = .cmdReserved8 ∧ decodeH 9 = .cmdReserved9 ∧
    decodeH 10 = .cmdReserved10 ∧ decodeH 11 = .cmdReserved11 ∧ decodeH 12 = .cmdReserved12 ∧ decodeH 13 = .cmdReserved13 ∧
    decodeH 14 = .cmdReserved14 ∧ decodeH 15 = .cmdReserved15 := by decide

/-- Host offsets over 4 (30 R98, 10 R40 to R46). -/
theorem test_decode_host :
    decodeHostRead 1 = .ok .rdStatus ∧ decodeHostRead 2 = .ok .rdArgs ∧ decodeHostRead 3 = .ok .rdPollLimit ∧
    decodeHostRead 4 = .ok .qAhbHz ∧ decodeHostRead 5 = .ok .qApb1Hz ∧ decodeHostRead 6 = .ok .qApb2Hz ∧
    decodeHostRead 7 = .ok .qAhbMs ∧ decodeHostRead 8 = .ok .qAhbUs ∧ decodeHostRead 9 = .ok .qApb1Ms ∧
    decodeHostRead 10 = .ok .qApb1Us ∧ decodeHostRead 11 = .ok .qApb2Ms ∧ decodeHostRead 12 = .ok .qApb2Us ∧
    decodeHostRead 0 = .error .readsZero ∧ decodeHostRead 13 = .error .readsZero ∧
    decodeHostWrite 3 1000 = .ok (.wrPollLimit 1000) ∧ decodeHostWrite 4 7 = .error .ignoredWrite := by decide

/-- The bus patterns of the primitives (30 R99) are never decoded. -/
theorem test_bus_patterns :
    encode (.rfRead 0) = .bus [false] ∧ encode (.rfWrite 0 0) = .bus [true] ∧ encode (.rfSetBits 0 0) = .bus [false, true] ∧
    encode (.rfClearBits 0 0) = .bus [false, true] ∧ encode (.rfTest 0 0) = .bus [false] ∧
    encode (.rfMaskedUpdate 0 0 0 0) = .bus [false, true] ∧ decode p0Codes.sw (.bus [false]) = .error .busPattern := by decide

/-- The words the spec's table numbers (opcode_table.json). -/
theorem test_table_words :
    decodeTableWord 16 0x1001 = some (.oscEnable .hsi (.enter .hsiEnabled)) ∧
    decodeTableWord 32 0x00000001 = some (.configure 0 0 0 0) ∧ decodeTableWord 32 0x10 = some .qAhbHz ∧
    decodeTableWord 32 0x30 = some .qApb2Us ∧ decodeTableWord 16 0xE00F = none := by decide

/-- Assembler lines (30 R105), the pseudo-instructions (R106), and that the micro-ROM is the hard-wired sequence (47 R183,
R184). -/
theorem test_assembly :
    asm (.oscEnable .hse (.enter .hseEnabled)) = some "OSC_ENABLE HSE -> HseEnabled" ∧
    asm (.flashSetWs true true (.enter .flashConfigured)) = some "FLASH_SET_WS ic dc -> FlashConfigured" ∧
    asm (.configure 1 1 0 0) = some "CONFIGURE crystal=1 target=1" := by decide

theorem test_rom_is_the_sequence :
    (allStates.flatMap actionsFrom).map encode = (rom.toList.take 19).map .micro ∧
    rom.toList.drop 19 = List.replicate 13 0 := by decide

/-! ## Helpers for single steps -/

/-- The external registers of 95 part 2, as stored words. -/
def t0Memory : Memory :=
  (((((Memory.storeWord [] 0x40023800 0x83).storeWord 0x40023804 0x24003010).storeWord 0x40023808 0).storeWord
    0x40007000 0x4000).storeWord 0x40023C00 0)

/-- T0 at reset, with its memory, under `EnvNominal`. -/
def base : State := { State.reset with mem := t0Memory, env := .nominal }

/-- A state in which the next read of `a` returns `w`, status bits and all. -/
def seeing (a : Addr) (w : Word) : State := { base with mem := t0Memory.storeWord a w, env := .scripted [w] }

/-- A profile latched. -/
def withRow (p : ClockScaleProfile) (s : State) : State := { s with cto := { s.cto with prof := some p } }

/-- The second half of a read-modify-write that has read `w`. -/
def second (w : Word) (s : State) : State := { s with cto := { s.cto with ph := true, tmp := some w } }

def row00 : ClockScaleProfile := ⟨8, 96, 2, 2, 0, 0, 5, 4, true, 3⟩
def row11 : ClockScaleProfile := ⟨25, 336, 2, 7, 0, 0, 5, 4, false, 5⟩

/-- The last transaction of the next state: written or read, where, what. -/
def lastTxn : Result → Option (Bool × Addr × Word)
  | .next t => t.trace.getLast?.map fun x => (x.we, x.addr, x.data)
  | _ => none

/-- A field of the next state's CTO. -/
def after {α : Type} (f : Cto → α) : Result → Option α
  | .next t => some (f t.cto)
  | _ => none

/-- The last value returned. -/
def answer : Result → Option Word
  | .next t => t.returned.getLast?
  | _ => none

/-- A word of the next state's storage. -/
def wordAfter (a : Addr) : Result → Option Word
  | .next t => some (t.mem.word a)
  | _ => none

/-! ## Single steps, results from 95 part 3 -/

theorem test_oscEnable_hse : lastTxn (exec (.oscEnable .hse .keep) (second 0x83 base)) = some (true, 0x40023800, 0x10083) := by
  decide

theorem test_oscEnable_lsi_read :
    lastTxn (exec (.oscEnable .lsi .keep) (seeing 0x40023874 0)) = some (false, 0x40023874, 0) := by decide

theorem test_oscDisable_hsi :
    lastTxn (exec (.oscDisable .hsi .keep) (second 0x03030083 base)) = some (true, 0x40023800, 0x03030082) := by
  decide

theorem test_oscWaitReady_completes :
    after (fun c => (c.upc, c.fault, c.pollcnt)) (exec (.oscWaitReady .hse .keep) (seeing 0x40023800 0x20000)) =
      some (1, false, 0) := by decide

theorem test_oscWaitReady_times_out :
    after (fun c => (c.upc, c.fault, c.faultCode, c.faultSrc, c.pollcnt))
      (exec (.oscWaitReady .hse .keep) { seeing 0x40023800 0x10083 with cto := { Cto.reset with limit := 1 } }) =
      some (0, true, 1, 1, 1) := by decide

theorem test_oscIsReady :
    after (·.rdy) (exec (.oscIsReady .pll .keep) (seeing 0x40023800 0x02010083)) = some true ∧
    after (·.rdy) (exec (.oscIsReady .pll .keep) (seeing 0x40023800 0x01010083)) = some false := by decide

theorem test_swSelect_hse :
    lastTxn (exec (.swSelect .hse .keep) (second 0xFFFFFFFF base)) = some (true, 0x40023808, 0xFFFFFFFD) := by decide

theorem test_swSelect_hsi :
    lastTxn (exec (.swSelect .hsi .keep) (second 0x940A base)) = some (true, 0x40023808, 0x9408) := by decide

theorem test_swWait_polls :
    after (fun c => (c.upc, c.pollcnt)) (exec (.swWait .pll .keep) (seeing 0x40023808 0x9406)) = some (0, 1) ∧
    after (fun c => (c.upc, c.pollcnt)) (exec (.swWait .pll .keep) (seeing 0x40023808 0x8)) = some (1, 0) := by decide

theorem test_swWait_times_out :
    after (fun c => (c.faultCode, c.faultSrc))
      (exec (.swWait .pll .keep) { seeing 0x40023808 0x9402 with cto := { Cto.reset with limit := 1 } }) = some (2, 2) := by
  decide

/-- Operands latched. -/
def latched (c t : BitVec 8) (s : State) : State :=
  { s with cto := { s.cto with crystal := some c, target := some t, argsValid := true } }

theorem test_profLookup : after (·.prof) (exec (.profLookup .keep) (latched 1 1 base)) = some (some row11) := by decide

theorem test_profLookup_bad :
    after (fun c => (c.prof, c.faultCode)) (exec (.profLookup .keep)
      { latched 0 0 base with params := { t0 with profiles := [[⟨8, 96, 3, 2, 0, 0, 5, 4, true, 3⟩, row11], [row11, row11]] } }) =
      some (none, 5) := by decide

theorem test_vosSetScale_low :
    lastTxn (exec (.vosSetScale .keep) (withRow row00 (second 0xFFFFFFFF base))) = some (true, 0x40007000, 0xFFFFBFFF) := by
  decide

theorem test_vosSetScale_high :
    lastTxn (exec (.vosSetScale .keep) (withRow row11 (second 0x4000 base))) = some (true, 0x40007000, 0xC000) := by decide

theorem test_preSetAhb_truncates :
    lastTxn (exec (.preSetAhb .keep) (withRow { row11 with hpre := 0x19 } (second 0 base))) = some (true, 0x40023808, 0x90) := by
  decide

theorem test_preSetApb1 :
    lastTxn (exec (.preSetApb1 .keep) (withRow { row11 with ppre1 := 7 } (second 0x940A base))) =
      some (true, 0x40023808, 0x9C0A) := by decide

theorem test_preSetApb2_truncates :
    lastTxn (exec (.preSetApb2 .keep) (withRow { row11 with ppre2 := 13 } (second 0x00FF0000 base))) =
      some (true, 0x40023808, 0x00FFA000) := by decide

theorem test_pllWords :
    pllWord t0 ⟨8, 96, 2, 2, 1, 0, 0, 0, false, 0⟩ = 0x22401808 ∧ pllWord t0 ⟨8, 96, 2, 2, 9, 0, 0, 0, false, 0⟩ = 0x12401808 ∧
    pllWord t0 row11 = 0x27405419 ∧ pllWord t0 ⟨4, 168, 4, 7, 2, 0, 0, 0, false, 0⟩ = 0x27412A04 ∧
    pllWord t0 ⟨63, 511, 8, 15, 7, 0, 0, 0, false, 0⟩ = 0x7F437FFF ∧
    pllWord t0 ⟨70, 600, 8, 17, 0, 0, 0, 0, false, 0⟩ = 0x21431606 := by decide

theorem test_pllConfigure_writes :
    lastTxn (exec (.pllConfigure .keep) (withRow row11 (second 0x83 base))) =
      some (true, 0x40023804, 0x27405419) := by decide

/-- Its test read, passed, stays in `tmp` (10 R23); failed, it leaves `ph` and `tmp` alone (60 R224). -/
theorem test_pllConfigure_tests :
    after (fun c => (c.fault, c.ph, c.tmp)) (exec (.pllConfigure .keep) (withRow row11 (seeing 0x40023800 0x00030083))) =
      some (false, true, some 0x00030083) ∧
    after (fun c => (c.faultCode, c.faultSrc, c.ph, c.tmp))
      (exec (.pllConfigure .keep) (withRow row11 (seeing 0x40023800 0x01030083))) = some (3, 2, false, none) := by decide

theorem test_flashSetWs_keeps :
    lastTxn (exec (.flashSetWs false true .keep) (withRow { row11 with flashWaitStates := 3 } (second 0x705 base))) =
      some (true, 0x40023C00, 0x503) := by decide

theorem test_flashSetWs_truncates :
    lastTxn (exec (.flashSetWs true true .keep) (withRow { row11 with flashWaitStates := 21 } (second 0x1800 base))) =
      some (true, 0x40023C00, 0x1E05) := by decide

theorem test_freqPublish_floors :
    after (fun c => (c.bank.ahbHz, c.bank.ahbMs, c.bank.ahbUs, c.bank.apb1Hz, c.bank.apb1Us, c.bank.apb2Hz))
      (exec (.freqPublish .keep) (withRow ⟨24, 336, 4, 7, 2, 9, 4, 6, false, 5⟩ (latched 1 1 base))) =
      some (21874986, 21874, 21, 10937493, 10, 2734373) := by decide

/-- Naturals up to the last step: 8 GHz is truncated, its half is exact (95 part 3 SEQ). -/
theorem test_freqPublish_truncates :
    after (fun c => (c.bank.ahbHz, c.bank.ahbMs, c.bank.apb2Hz)) (exec (.freqPublish .keep) (withRow ⟨1, 4, 2, 2, 2, 0, 0, 4, false, 0⟩
      { latched 0 0 base with params := { t0 with crystalHz := [4000000000, 1] } })) = some (3705032704, 3705032, 4000000000) := by
  decide

theorem test_end :
    after statusWord (exec (.uEnd .keep) { base with cto := { Cto.reset with busy := true, upc := 18, state := .hsiDisabled } }) =
      some 0x2D := by decide

theorem test_rfRead : answer (exec (.rfRead 0x40023804) (seeing 0x40023804 0x1234)) = some 0x1234 := by decide

theorem test_rfWrite :
    wordAfter 0x40023804 (exec (.rfWrite 0x40023804 0x22401808) (seeing 0x40023804 0x1234)) = some 0x22401808 := by decide

/-- A write leaves the status bits of the word alone (20 R67). -/
theorem test_rfWrite_status :
    wordAfter 0x40023808 (exec (.rfWrite 0x40023808 0xFFFFFFFF) base) = some 0xFFFFFFF3 := by decide

theorem test_rfSetBits : lastTxn (exec (.rfSetBits 0x40023804 0x10000) (second 0x1234 base)) = some (true, 0x40023804, 0x11234) := by
  decide

theorem test_rfClearBits : lastTxn (exec (.rfClearBits 0x40023804 4) (second 0x1234 base)) = some (true, 0x40023804, 0x1230) := by
  decide

theorem test_rfTest :
    answer (exec (.rfTest 0x40023804 0x18) (seeing 0x40023804 0x1234)) = some 1 ∧
    answer (exec (.rfTest 0x40023804 0x8) (seeing 0x40023804 0x1234)) = some 0 := by decide

theorem test_rfMaskedUpdate :
    lastTxn (exec (.rfMaskedUpdate 0x40023804 7 10 13) (second 0x1234 base)) = some (true, 0x40023804, 0x1634) := by decide

/-! ## The host, from the reset state -/

/-- One host access as the next turn. -/
def accessed (we : Bool) (off : Nat) (w : Word) (s : State) : Result := step { s with agenda := [.host ⟨we, off, 4, w⟩] }

theorem test_host_reads :
    answer (accessed false 0x04 0 base) = some 0 ∧ answer (accessed false 0x08 0 base) = some 0 ∧
    answer (accessed false 0x0C 0 base) = some 0 ∧ answer (accessed false 0x10 0 base) = some 0x007A1200 ∧
    answer (accessed false 0x1C 0 base) = some 0x1F40 ∧ answer (accessed false 0x30 0 base) = some 8 ∧
    answer (accessed false 0x00 0 base) = some 0 ∧ answer (accessed false 0x3C 0 base) = some 0 := by decide

theorem test_host_ignored_write : after (·.bank) (accessed true 0x10 0x12345678 base) = some Bank.reset := by decide

theorem test_host_poll_limit : after (·.pollLimit) (accessed true 0x0C 1000 base) = some 1000 := by decide

theorem test_host_bad_opcode : after statusWord (accessed true 0 7 base) = some 0x02000000 := by decide

theorem test_host_bad_args : after statusWord (accessed true 0 0x00020001 base) = some 0x03000000 := by decide

theorem test_host_nop :
    after statusWord (accessed true 0 0 { base with cto := { Cto.reset with cmderr := 2 } }) = some 0 := by decide

theorem test_host_configure :
    after (fun c => (statusWord c, argsWord c, c.limit))
      (accessed true 0 0x00010101 { base with cto := { Cto.reset with pollLimit := 1000 } }) = some (0x10, 0x80000101, 1000) := by
  decide

theorem test_host_busy :
    after statusWord (accessed true 0 0x00010101 { base with cto := { Cto.reset with busy := true } }) = some 0x01000010 := by
  decide

/-- The status word of program P2's end (95 part 4). -/
theorem test_status_word :
    statusWord { Cto.reset with state := .prescalersConfigured, busy := true, fault := true, faultCode := 3, faultSrc := 2, upc := 10 }
      = 0x000A2356 := by decide

/-- An illegal word raises IllegalUop and moves nothing else (30 R101). -/
theorem test_step_illegal :
    after (fun c => (c.fault, c.faultCode, c.upc)) (step (State.reset.withFetchWord 16 0xE00F)) = some (true, 4, 0) := by decide

theorem test_step_runs_the_word :
    after (fun c => (c.upc, c.ph)) (step (base.withFetchWord 16 0x1001)) = some (0, true) := by decide

/-- Reset ends a hang and keeps what was written (95 part 3). -/
theorem test_reset :
    after (fun c => c) (step { base with cto := { Cto.reset with busy := true, upc := 4, pollcnt := 9 }, agenda := [.reset] }) =
      some Cto.reset ∧
    wordAfter 0x40007000 (step { base with agenda := [.reset] }) = some 0x4000 := by decide

/-! ## Witnesses: concrete states that meet the hypotheses of each statement together, at the boundaries of its clauses -/

open Sys2Proof.Claims

theorem witness_sound : Sound base ∧ base.cto.ph = false := ⟨⟨by decide, by decide⟩, rfl⟩

theorem witness_OscEnableSetsTheEnableBit : Sound base ∧ base.cto.ph = false := witness_sound

theorem witness_OscDisableClearsTheEnableBit : Sound base ∧ base.cto.ph = false := witness_sound

/-- A ready bit that reads 1; a failed poll without limit, below the limit, and the one that reaches it. -/
def pollingHse (w limit cnt : Word) : State :=
  { seeing 0x40023800 w with cto := { Cto.reset with limit := limit, pollcnt := cnt } }

theorem witness_OscWaitReadyPolls :
    paramsWf (pollingHse 0x20000 0 0).params = true ∧
    (readValue (pollingHse 0x20000 0 0) (.pollReady .hse) 0x40023800).getLsbD 17 = true ∧
    (readValue (pollingHse 0x10083 0 0) (.pollReady .hse) 0x40023800).getLsbD 17 = false ∧
    (pollingHse 0x10083 0 0).cto.limit = 0 ∧
    (pollingHse 0x10083 2 0).cto.pollcnt + 1 ≠ (pollingHse 0x10083 2 0).cto.limit ∧
    (pollingHse 0x10083 2 1).cto.pollcnt + 1 = (pollingHse 0x10083 2 1).cto.limit := by decide

theorem witness_OscIsReadyWritesRdy : paramsWf base.params = true := by decide

/-- HSE never gets ready; limit 3. -/
def stuckHse : State := { base with env := .stuck .hse, cto := { Cto.reset with limit := 3 } }

theorem witness_OscWaitTimesOutAtTheLimit :
    paramsWf stuckHse.params = true ∧ stuckHse.env = .stuck .hse ∧ stuckHse.cto.pollcnt = 0 ∧ stuckHse.cto.limit ≠ 0 ∧
    0 ≤ stuckHse.cto.limit.toNat ∧ 2 ≤ stuckHse.cto.limit.toNat ∧ 3 = stuckHse.cto.limit.toNat := by decide

/-- At word 4, the wait for HSE, without limit. -/
def hanging : State :=
  { base with env := .stuck .hse, cto := { Cto.reset with busy := true, upc := 4, state := .hseEnabled } }

theorem witness_OscWaitHangsWithoutLimit :
    paramsWf hanging.params = true ∧ hanging.agenda = [] ∧ hanging.env = .stuck .hse ∧ hanging.cto.busy = true ∧
    hanging.cto.fault = false ∧ hanging.cto.limit = 0 ∧
    decodeU hanging.params.codes.sw (fetch hanging) = .ok (.oscWaitReady .hse (.enter .hseReady)) := by decide

theorem witness_NominalWaitSucceedsAtOnce :
    paramsWf base.params = true ∧ base.env = .nominal ∧ storedBit base.mem (base.params.regs.en.get .hsi) = true := by decide

theorem witness_SwSelectWritesTheSelectField :
    Sound base ∧ base.cto.ph = false ∧ base.params.codes.sw.get .pll = some 2 := ⟨witness_sound.1, rfl, rfl⟩

def pollingSwitch (w limit cnt : Word) : State :=
  { seeing 0x40023808 w with cto := { Cto.reset with limit := limit, pollcnt := cnt } }

theorem witness_SwWaitPolls :
    base.params.codes.sw.get .pll = some 2 ∧
    p0RegMap.sws.get (readValue (pollingSwitch 0x8 0 0) .pollSwitch 0x40023808) = 2 ∧
    p0RegMap.sws.get (readValue (pollingSwitch 0x9402 0 0) .pollSwitch 0x40023808) = 0 ∧
    (pollingSwitch 0x9402 2 0).cto.pollcnt + 1 ≠ (pollingSwitch 0x9402 2 0).cto.limit ∧
    (pollingSwitch 0x9402 2 1).cto.pollcnt + 1 = (pollingSwitch 0x9402 2 1).cto.limit := by decide

theorem witness_UnselectableSourceFaults : base.params.codes.sw.get .lse = none := rfl

/-- Both values of power_save. -/
theorem witness_VosSetScaleWritesTheRange :
    (Sound (withRow row00 base) ∧ (withRow row00 base).cto.ph = false ∧ (withRow row00 base).cto.prof = some row00 ∧
      row00.powerSave = true) ∧
    (Sound (withRow row11 base) ∧ (withRow row11 base).cto.ph = false ∧ (withRow row11 base).cto.prof = some row11 ∧
      row11.powerSave = false) :=
  ⟨⟨⟨by decide, by decide⟩, rfl, rfl, rfl⟩, ⟨⟨by decide, by decide⟩, rfl, rfl, rfl⟩⟩

theorem witness_PrescalersWriteTheirFields :
    Sound (withRow row11 base) ∧ (withRow row11 base).cto.ph = false ∧ (withRow row11 base).cto.prof = some row11 :=
  ⟨⟨by decide, by decide⟩, rfl, rfl⟩

theorem witness_FlashSetWsWritesTogether :
    Sound (withRow row11 base) ∧ (withRow row11 base).cto.ph = false ∧ (withRow row11 base).cto.prof = some row11 :=
  ⟨⟨by decide, by decide⟩, rfl, rfl⟩

theorem witness_PllConfigureWritesTheWordOnce :
    Sound (withRow row11 base) ∧ (withRow row11 base).cto.ph = false ∧ (withRow row11 base).cto.prof = some row11 ∧
    storedBit (withRow row11 base).mem p0RegMap.en.pll = false :=
  ⟨⟨by decide, by decide⟩, rfl, rfl, by decide⟩

theorem witness_PllConfigureFaultsWhenEnabled :
    paramsWf (withRow row11 (seeing 0x40023800 0x01030083)).params = true ∧
    (withRow row11 (seeing 0x40023800 0x01030083)).cto.ph = false ∧
    (withRow row11 (seeing 0x40023800 0x01030083)).cto.prof = some row11 ∧
    storedBit (withRow row11 (seeing 0x40023800 0x01030083)).mem p0RegMap.en.pll = true := by decide

/-- R below, at and above the clamp; the last P divider that has a code. -/
theorem witness_PllWordHoldsTheSixFields :
    paramsWf t0 = true ∧ encP t0.codes row11.pllp = some 0 ∧ encP t0.codes 8 = some 3 ∧
    max (1#16).toNat 2 = 2 ∧ max (2#16).toNat 2 = 2 ∧ max (3#16).toNat 2 = 3 := by decide

def badTable : Params := { t0 with profiles := [[⟨8, 96, 3, 2, 0, 0, 5, 4, true, 3⟩, row11], [row11, row11]] }

/-- The last entry of the table; an entry whose P divider has no code. -/
theorem witness_ProfLookupLatchesTheEntry :
    ((latched 1 1 base).cto.crystal = some 1 ∧ (latched 1 1 base).cto.target = some 1 ∧
      (latched 1 1 base).params.profiles[1]? = some (t0.profiles.getD 1 []) ∧ (t0.profiles.getD 1 [])[1]? = some row11 ∧
      encP t0.codes row11.pllp ≠ none) ∧
    (badTable.profiles[0]? = some (badTable.profiles.getD 0 []) ∧
      (badTable.profiles.getD 0 [])[0]? = some ⟨8, 96, 3, 2, 0, 0, 5, 4, true, 3⟩ ∧ encP badTable.codes 3 = none) := by decide

def publishing : State := withRow row11 (latched 1 1 base)

theorem witness_FreqPublishWritesTheBank :
    publishing.cto.crystal = some 1 ∧ publishing.params.crystalHz[1]? = some 25000000 ∧ publishing.cto.prof = some row11 ∧
    row11.pllm ≠ 0 ∧ row11.pllp ≠ 0 ∧ paramsWf publishing.params = true := by decide

/-- Both ends of the VCO range (95 S4). -/
theorem witness_ValidProfilePublishesExactly :
    paramsWf t0 = true ∧ profileValid (crystalHzAt t0 1) row11 = true ∧ row11.pllp ≠ 0 ∧
    profileValid (crystalHzAt t0 0) ⟨8, 100, 2, 2, 0, 0, 0, 0, false, 0⟩ = true ∧
    profileValid (crystalHzAt t0 0) ⟨8, 432, 2, 2, 0, 0, 0, 0, false, 0⟩ = true ∧
    profileValid (crystalHzAt t0 0) ⟨8, 433, 2, 2, 0, 0, 0, 0, false, 0⟩ = false ∧
    profileValid (crystalHzAt t0 0) ⟨3, 100, 2, 2, 0, 0, 0, 0, false, 0⟩ = false := by decide

/-- Two states that differ in memory, trace and `upc`. -/
theorem witness_PublicationIsAFunctionOfOperands : ∃ t t' : State,
    publishing.params = (second 7 publishing).params ∧ publishing.cto.crystal = (second 7 publishing).cto.crystal ∧
    publishing.cto.prof = (second 7 publishing).cto.prof ∧ publishing.cto.prof ≠ none ∧
    exec (.freqPublish .keep) publishing = .next t ∧
    exec (.freqPublish (.enter .frequenciesPublished)) (second 7 publishing) = .next t' :=
  ⟨_, _, rfl, rfl, rfl, by decide, rfl, rfl⟩

theorem witness_EmptyProfileFaultsFirst : base.cto.prof = none ∧ (second 0 base).cto.prof = none := ⟨rfl, rfl⟩

/-- A fault of each clause, from states without one. -/
theorem witness_FaultsOfEachMicroOperation :
    base.cto.fault = false ∧ (Instr.oscWaitReady .hse .keep).format = .u ∧
    after (·.fault) (exec (.oscWaitReady .hse .keep) (pollingHse 0x10083 2 1)) = some true ∧
    after (·.fault) (exec (.swWait .pll .keep) (pollingSwitch 0x9402 2 1)) = some true ∧
    after (·.fault) (exec (.swWait .lse .keep) base) = some true ∧
    after (·.fault) (exec (.swSelect .lse .keep) base) = some true ∧
    after (·.fault) (exec (.profLookup .keep) { latched 0 0 base with params := badTable }) = some true ∧
    after (·.fault) (exec (.pllConfigure .keep) base) = some true ∧
    after (·.fault) (exec (.pllConfigure .keep) (withRow row11 (seeing 0x40023800 0x01030083))) = some true ∧
    after (·.fault) (exec (.flashSetWs true true .keep) base) = some true := by decide

/-- `upc` stays, moves on (from 31 to 0 too), and is cleared. -/
theorem witness_MicroProgramCounterMoves :
    (Instr.oscEnable .hse .keep).format = .u ∧
    after (·.upc) (exec (.oscEnable .hse .keep) base) = some 0 ∧
    after (·.upc) (exec (.oscEnable .hse .keep) { base with cto := { Cto.reset with ph := true, tmp := some 0, upc := 31 } })
      = some 0 ∧
    after (·.upc) (exec (.uEnd .keep) { base with cto := { Cto.reset with busy := true, upc := 18 } }) = some 0 := by decide

theorem witness_NopClearsTheVerdict :
    (0xFFFFFFF0 : Word).extractLsb' 0 4 = 0 ∧ (0 : Word).extractLsb' 0 4 = 0 := by decide

/-- Busy; faulted; each bad field; the last operands in range and the first out of it. -/
theorem witness_ConfigureChecksThenAccepts :
    (0xFFFFFFF1 : Word).extractLsb' 0 4 = 1 ∧
    after (·.cmderr) (exec (.configure 1 1 0 0) { base with cto := { Cto.reset with busy := true } }) = some 1 ∧
    after (·.cmderr) (exec (.configure 2 1 0 0) { base with cto := { Cto.reset with fault := true } }) = some 1 ∧
    after (·.cmderr) (exec (.configure 1 1 8 0) base) = some 3 ∧ after (·.cmderr) (exec (.configure 1 1 0 1) base) = some 3 ∧
    after (·.cmderr) (exec (.configure 2 1 0 0) base) = some 3 ∧ after (·.cmderr) (exec (.configure 1 2 0 0) base) = some 3 ∧
    after (·.busy) (exec (.configure 1 1 0 0) base) = some true := by decide

theorem witness_ReservedOpcodesAreRejected :
    2 ≤ ((2 : Word).extractLsb' 0 4).toNat ∧ 2 ≤ ((0xFFFFFFFF : Word).extractLsb' 0 4).toNat := by decide

theorem witness_ArgsShowTheLatches :
    base.cto.argsValid = false ∧ (latched 1 0 base).cto.argsValid = true ∧ (latched 1 0 base).cto.crystal = some 1 ∧
    (latched 1 0 base).cto.target = some 0 := ⟨rfl, rfl, rfl, rfl⟩

/-- Offsets 0, 0x34 and 0x3C read 0; writes of 0x04, 0x08, 0x10 and 0x3C are ignored. -/
theorem witness_OtherHostAccessesDoNothing :
    paramsWf base.params = true ∧
    answer (accessed false (4 * 0) 9 base) = some 0 ∧ answer (accessed false (4 * 13) 9 base) = some 0 ∧
    answer (accessed false (4 * 15) 9 base) = some 0 ∧
    after (·.bank) (accessed true (4 * 1) 9 base) = some Bank.reset ∧ after (·.bank) (accessed true (4 * 2) 9 base) = some Bank.reset ∧
    after (·.bank) (accessed true (4 * 4) 9 base) = some Bank.reset ∧
    after (·.bank) (accessed true (4 * 15) 9 base) = some Bank.reset := by decide

theorem witness_RfReadAndTestReturn : named base.params.regs 0x40023804 = true := by decide

theorem witness_RfWriteReplacesTheWord : named base.params.regs 0x40023C00 = true ∧ Memory.wf base.mem = true := by decide

theorem witness_RfReadModifyWrites :
    named base.params.regs 0x40023804 = true ∧ Memory.wf base.mem = true ∧ base.cto.ph = false := by decide

/-- Every bit of the PLL configuration word of P0 is a storage bit. -/
theorem storage_pllcfg (b : Nat) : StorageBit base 0x40023804 b := by
  have h : statusMask base.params.regs 0x40023804 = 0#32 := by decide
  unfold StorageBit
  rw [h]
  exact BitVec.getLsbD_zero

/-- A field inside the word, the whole word, an empty field at its top. -/
theorem witness_FieldRoundTrip :
    named base.params.regs 0x40023804 = true ∧ Memory.wf base.mem = true ∧ base.cto.ph = false ∧
    (10 + 3 ≤ 32 ∧ ∀ b, 10 ≤ b → b < 10 + 3 → StorageBit base 0x40023804 b) ∧
    (0 + 32 ≤ 32 ∧ ∀ b, 0 ≤ b → b < 0 + 32 → StorageBit base 0x40023804 b) ∧
    (32 + 0 ≤ 32 ∧ ∀ b, 32 ≤ b → b < 32 + 0 → StorageBit base 0x40023804 b) :=
  ⟨by decide, by decide, rfl, ⟨by decide, fun b _ _ => storage_pllcfg b⟩, ⟨by decide, fun b _ _ => storage_pllcfg b⟩,
    ⟨by decide, fun b _ _ => storage_pllcfg b⟩⟩

theorem witness_ReadModifyWriteLosesForeignWrite :
    named base.params.regs 0x40023804 = true ∧ Memory.wf base.mem = true ∧ base.cto.ph = false ∧ base.cto.busy = false := by
  decide

theorem witness_UnnamedAddressStops : named base.params.regs 0x40023814 = false := by decide

/-- A run at word 0. -/
def running : State := { latched 1 1 base with cto := (latched 1 1 base).cto.accept 1 1 }

theorem witness_StepRunsTheDecodedMicroWord :
    paramsWf running.params = true ∧ running.cto.busy = true ∧ running.cto.fault = false ∧
    decodeU running.params.codes.sw (running.urom.get running.cto.upc.toFin) = .ok (.oscEnable .hsi (.enter .hsiEnabled)) ∧
    running.agenda = [] ∧ (State.withFetchWord running 16 0x1001).agenda = [.sequencer] := by decide

theorem witness_StepRunsTheHostAccess :
    paramsWf base.params = true ∧ (Instr.configure 1 1 0 0).format = .h ∧
    encode (.configure 1 1 0 0) = .command 0x00010101 ∧
    hostAccessOf base.params.hostBase (.command 0x00010101) = some ⟨true, 0, 4, 0x00010101⟩ ∧
    Instr.qApb2Us.format = .hq ∧ hostAccessOf base.params.hostBase (encode .qApb2Us) = some ⟨false, 48, 4, 0⟩ ∧
    hostAccessOf base.params.hostBase (encode (.wrPollLimit 7)) = some ⟨true, 12, 4, 7⟩ ∧
    { base with agenda := [.host ⟨true, 0, 4, 0x00010101⟩] }.agenda = .host ⟨true, 0, 4, 0x00010101⟩ :: [] := by decide

/-- Words no encoder writes: NOP and a reserved opcode with other bits set; a read that carries data; the last register. -/
theorem witness_StepRunsTheHostAccess_others :
    decodeH 0xFFFFFFF0 = .nop ∧ decodeH 0xFFFFFFFF = .cmdReserved15 ∧ base.params.hostBase + 4 * 0 = base.params.hostBase ∧
    (HostAccess.mk false 48 4 7).addr = base.params.hostBase + 4 * 12 ∧ (HostAccess.mk false 48 4 7).bytes = 4 ∧
    decodeHostRead (BitVec.ofNat 4 12) = .ok .qApb2Us ∧ decodeHostWrite (BitVec.ofNat 4 3) 7 = .ok (.wrPollLimit 7) := by decide

/-- A run that stands at an illegal word, with the given turns to come. -/
def atIllegalWord (agenda : List Turn) : State := { running with urom := rom.set 0 0xE00F, agenda := agenda }

/-- Both clauses: no turn listed, and the sequencer's. -/
theorem witness_IllegalWordFaults : ∀ agenda ∈ [[], [Turn.sequencer]],
    paramsWf (atIllegalWord agenda).params = true ∧ (atIllegalWord agenda).cto.busy = true ∧
    (atIllegalWord agenda).cto.fault = false ∧
    decodeU (atIllegalWord agenda).params.codes.sw ((atIllegalWord agenda).urom.get (atIllegalWord agenda).cto.upc.toFin) =
      .error .opcode ∧
    (atIllegalWord agenda).agenda = agenda := by decide

/-- Each clause: no run, no turn listed; after a fault, the sequencer's turn listed. -/
theorem witness_IdleSequencerHolds :
    (paramsWf base.params = true ∧ base.cto.busy = false ∧ base.agenda = []) ∧
    (paramsWf { running with cto := running.cto.raise .pllRunning, agenda := [.sequencer] }.params = true ∧
      { running with cto := running.cto.raise .pllRunning, agenda := [.sequencer] }.cto.fault = true ∧
      { running with cto := running.cto.raise .pllRunning, agenda := [.sequencer] }.agenda = .sequencer :: []) := by decide

theorem witness_ResetRestoresTheCtoOnly :
    paramsWf base.params = true ∧ { running with agenda := [.reset] }.agenda = .reset :: [] := by decide

/-- A map that overlaps, and tables with an empty enumeration. -/
def overlapping : State := { base with params := { t0 with regs := { p0RegMap with hpre := ⟨1, 4⟩ } } }
def emptyTables : State := { base with params := { t0 with ncrystal := 0, crystalHz := [], profiles := [] } }

/-- A port at 4 and one access as the next turn. -/
def portAt4 (a : HostAccess) : State := { base with params := { t0 with hostBase := 4 }, agenda := [.host a] }

/-- A run and a foreign write as the next turn. -/
def foreignInRun : State := { running with agenda := [.foreignWrite 0x40023804 5] }

/-- Each clause in its state: the map, the tables, the first addresses below and above the port, a misaligned one, a narrow
access, a foreign write during a run. -/
theorem witness_RefusedMoves :
    RegMap.wf overlapping.params.regs = false ∧ tablesWf emptyTables.params = false ∧
    (∀ a : HostAccess, paramsWf (portAt4 a).params = true ∧ (portAt4 a).agenda = .host a :: []) ∧
    ((⟨false, 3, 4, 0⟩ : HostAccess).addr < (portAt4 ⟨false, 3, 4, 0⟩).params.hostBase ∧
      (portAt4 ⟨false, 68, 4, 0⟩).params.hostBase + 64 ≤ (⟨false, 68, 4, 0⟩ : HostAccess).addr ∧
      ((⟨false, 6, 4, 0⟩ : HostAccess).addr - (portAt4 ⟨false, 6, 4, 0⟩).params.hostBase) % 4 ≠ 0 ∧
      (⟨false, 4, 2, 0⟩ : HostAccess).bytes ≠ 4) ∧
    (paramsWf foreignInRun.params = true ∧ foreignInRun.agenda = .foreignWrite 0x40023804 5 :: [] ∧
      foreignInRun.cto.busy = true) :=
  ⟨by decide, by decide, fun _ => ⟨(by decide : paramsWf { t0 with hostBase := 4 } = true), rfl⟩, by decide, by decide⟩

/-- A foreign write to the clock-configuration word: bit 0 is a storage bit, bit 2 a status bit. -/
def foreignOutside : State := { base with agenda := [.foreignWrite 0x40023808 5] }

theorem witness_ForeignWriteOutsideARun :
    Sound foreignOutside ∧ foreignOutside.agenda = .foreignWrite 0x40023808 5 :: [] ∧ foreignOutside.cto.busy = false ∧
    named foreignOutside.params.regs 0x40023808 = true ∧ StorageBit foreignOutside 0x40023808 0 ∧
    ¬ StorageBit foreignOutside 0x40023808 2 :=
  ⟨⟨by decide, by decide⟩, rfl, rfl, by decide, by unfold StorageBit; decide, by unfold StorageBit; decide⟩

theorem witness_next (s : State) (h : (after (·.busy) (step s)).isSome = true) : ∃ t, step s = .next t := by
  unfold after at h
  split at h
  · exact ⟨_, by assumption⟩
  · cases h

theorem witness_ReadOnlyStoresNeverChange : ∃ t, step running = .next t := witness_next running (by decide)

theorem witness_AtMostOneTransactionAStep :
    (∃ t, step running = .next t) ∧ lastTxn (step running) = some (false, 0x40023800, 0x83) ∧ lastTxn (step base) = none :=
  ⟨witness_next running (by decide), by decide, by decide⟩

/-- At word 16 with other frequencies than the bank holds; and reset of a published bank. -/
def aboutToPublish : State := { publishing with cto := { publishing.cto with busy := true, upc := 16 } }

theorem witness_OnlyPublicationWritesTheBank :
    (after (·.bank) (step aboutToPublish) ≠ some aboutToPublish.cto.bank ∧ (after (·.bank) (step aboutToPublish)).isSome = true) ∧
    after (·.bank) (step { base with agenda := [.reset], cto := { Cto.reset with bank := Bank.ofHz 1 1 1 } }) = some Bank.reset := by
  decide

def faulted : State := { running with cto := running.cto.raise .pllRunning, agenda := [.host ⟨true, 0, 4, 0⟩] }

theorem witness_FaultIsSticky :
    faulted.cto.fault = true ∧ faulted.agenda.head? ≠ some .reset ∧ ∃ t, step faulted = .next t :=
  ⟨rfl, by decide, witness_next faulted (by decide)⟩

theorem inv_running : Inv running where
  cto := ⟨by decide, by decide, by decide, by decide, by decide, by decide, by decide, by decide⟩
  mem := by decide
  operands := by decide
  profile := fun p h => by cases h

theorem rom_running : RomInv running where
  fixed := rfl
  switchable := by decide
  progress := by decide
  latched := by decide
  finished := by decide
  published := fun _ p h => by cases h
  causes := by decide

theorem witness_StepKeepsTheInvariants : Inv running ∧ ∃ t, step running = .next t :=
  ⟨inv_running, witness_next running (by decide)⟩

theorem witness_StepKeepsTheSequence : Inv running ∧ RomInv running ∧ ∃ t, step running = .next t :=
  ⟨inv_running, rom_running, witness_next running (by decide)⟩

theorem witness_LaunchMeetsTheSequence : t0.codes.sw.hsi.isSome = true ∧ t0.codes.sw.pll.isSome = true := ⟨rfl, rfl⟩

theorem witness_TraceFollowsTheMicroRom :
    Inv running ∧ RomInv running ∧ running.agenda = [] ∧ ∃ t, Host.Core.run core 1 running = .next t := by
  refine ⟨inv_running, rom_running, rfl, ?_⟩
  obtain ⟨t, h⟩ := witness_next running (by decide)
  refine ⟨t, ?_⟩
  show (match step running with | .next s' => Host.Core.run core 0 s' | .fault r => .fault r | .refused r => .refused r) = _
  rw [h]
  rfl

theorem witness_NominalRunCompletes :
    Sound running ∧ running.agenda = [] ∧ running.env = .nominal ∧ running.urom = rom ∧ running.cto.busy = true ∧
    running.cto.fault = false ∧ running.cto.upc = 0 ∧ running.cto.ph = false ∧
    badProfile running.params.codes (selectedProfile running) = false ∧ running.params.codes.sw.hsi.isSome = true ∧
    running.params.codes.sw.pll = some 2 ∧ (2 : Word) &&& running.params.regs.sw.mask = 2 ∧
    storedBit running.mem running.params.regs.en.pll = false :=
  ⟨⟨by decide, by decide⟩, rfl, rfl, rfl, rfl, rfl, rfl, rfl, by decide, rfl, rfl, by decide, by decide⟩

/-- A second run, the PLL enable bit set by the first. -/
def runningAgain : State := { running with mem := t0Memory.storeWord 0x40023800 0x01010080 }

theorem inv_runningAgain : Inv runningAgain where
  cto := ⟨by decide, by decide, by decide, by decide, by decide, by decide, by decide, by decide⟩
  mem := by decide
  operands := by decide
  profile := fun p h => by cases h

theorem rom_runningAgain : RomInv runningAgain where
  fixed := rfl
  switchable := by decide
  progress := by decide
  latched := by decide
  finished := by decide
  published := fun _ p h => by cases h
  causes := by decide

theorem witness_PllEnabledRunNeverPublishes :
    Inv runningAgain ∧ RomInv runningAgain ∧ runningAgain.agenda = [] ∧ runningAgain.cto.busy = true ∧
    runningAgain.cto.upc = 0 ∧ runningAgain.cto.ph = false ∧
    storedBit runningAgain.mem runningAgain.params.regs.en.pll = true ∧
    p0RegMap.pllcfgAddr ∉ [p0RegMap.en.hsi.addr, p0RegMap.en.hse.addr, p0RegMap.pwrAddr, p0RegMap.cfgAddr] ∧
    ∃ t, Host.Core.run core 0 runningAgain = .next t :=
  ⟨inv_runningAgain, rom_runningAgain, rfl, rfl, rfl, rfl, by decide, by decide, runningAgain, rfl⟩

theorem witness_DecodeOfEncodeIsIdentity :
    WellFormed p0Codes.sw (.flashSetWs true false .keep) = true ∧ (Instr.flashSetWs true false .keep).format ≠ .bus := by decide

theorem witness_EncodeOfDecodeIsIdentity : decodeU p0Codes.sw 0xB08A = .ok (.flashSetWs true false (.enter .flashConfigured)) := by
  decide

end Sys2Proof.Tests
end

section
/-! Proofs for the family of spec/00_scope.md: what a step refuses, and what it records. -/

namespace Sys2Proof.Machine

/-! ## The turn a step takes, and the turns that are refused -/

/-- A configuration that is not admitted is refused before any turn. -/
theorem step_of_not_paramsWf {s : State} (h : paramsWf s.params = false) : step s = .refused .badConfiguration := by
  simp [step, turn, h]

/-- With an admitted configuration, the first turn listed is taken and dropped from the list. -/
theorem step_of_agenda_cons {s : State} {t : Turn} {rest : List Turn} (hp : paramsWf s.params = true)
    (ha : s.agenda = t :: rest) : step s = runTurn t { s with agenda := rest } := by
  simp [step, turn, hp, ha]

/-- The host port knows no access but an aligned word access of one of its sixteen registers (20 R62). -/
theorem hostEncoding_eq_none_iff (base : Nat) (a : HostAccess) :
    hostEncoding base a = none ↔
      a.bytes ≠ 4 ∨ a.addr < base ∨ base + 64 ≤ a.addr ∨ (a.addr - base) % 4 ≠ 0 := by
  unfold hostEncoding
  split
  · next hform => exact iff_of_false (Option.some_ne_none _) (by omega)
  · next hform => exact iff_of_true rfl (by omega)

/-- A host access of no form that the port knows is refused. -/
theorem hostTurn_of_encoding_none {s : State} {a : HostAccess} (h : hostEncoding s.params.hostBase a = none) :
    hostTurn a s = .refused .hostAccessForm := by
  simp [hostTurn, h]

/-- A foreign write during a run is refused, whatever its address. -/
theorem foreignTurn_of_busy {s : State} (a : Addr) (v : Word) (h : s.cto.busy = true) :
    foreignTurn a v s = .refused .foreignWriteDuringRun := by
  simp [foreignTurn, h]

/-! ## What a configuration that is not admitted breaks -/

theorem paramsWf_of_regs_not_wf {p : Params} (h : RegMap.wf p.regs = false) : paramsWf p = false := by
  simp [paramsWf, h]

theorem paramsWf_of_tables_not_wf {p : Params} (h : tablesWf p = false) : paramsWf p = false := by
  simp [paramsWf, h]

end Sys2Proof.Machine

namespace Sys2Proof.Claims

open Sys2Proof Sys2Proof.Machine Sys2Proof.Safety

/-- Settles O47: of the six ways of a step, only a micro-operation can record a transaction. -/
theorem atMostOneTransactionAStep : Obligations.AtMostOneTransactionAStep := by
  unfold Obligations.AtMostOneTransactionAStep
  intro s t hstep
  cases step_cases hstep with
  | idle ht => exact .inl (by rw [ht])
  | illegal r _ _ _ _ ht => exact .inl (by rw [ht, raise_trace])
  | micro i hturn hbusy hfault _ hmicro =>
    exact hmicro.trace.imp_right fun ⟨x, htrace, hupc, hnamed⟩ => ⟨x, htrace, hupc, hnamed, hturn, hbusy, hfault⟩
  | host a _ hhost => exact .inl hhost.trace
  | reset _ ht => exact .inl (by rw [ht, resetCto_trace])
  | foreign a v _ _ ht => exact .inl (by rw [ht])

/-- Settles O44: each clause is the refusal of the turn it names. -/
theorem refusedMoves : Obligations.RefusedMoves := by
  unfold Obligations.RefusedMoves
  intro s rest h a v
  refine ⟨fun hregs => ?_, fun htables => ?_, fun hp ha hform => ?_, fun hp ha hbusy => ?_⟩
  · exact step_of_not_paramsWf (paramsWf_of_regs_not_wf hregs)
  · exact step_of_not_paramsWf (paramsWf_of_tables_not_wf htables)
  · rw [step_of_agenda_cons hp ha]
    exact hostTurn_of_encoding_none ((hostEncoding_eq_none_iff _ _).2 hform)
  · rw [step_of_agenda_cons hp ha]
    exact foreignTurn_of_busy a v hbusy

end Sys2Proof.Claims
end

section
/-! Proofs for the family of spec/10_state.md: the machine's invariant, and which pieces of the state can change when. -/

namespace Sys2Proof.Safety

open Sys2Proof.Machine

/-! ## The operations on the CTO keep its invariant -/

theorem CtoInv.reset : CtoInv Cto.reset where
  fault_busy := nofun
  done_idle := nofun
  idle_clear _ := ⟨rfl, rfl, rfl⟩
  no_fault_codes _ := ⟨rfl, rfl⟩
  busy_args := nofun
  phase_tmp := rfl
  args_held := nofun
  bank_derived := by decide

section
variable {c : Cto} (h : CtoInv c)
include h

theorem CtoInv.verdict (v : BitVec 2) : CtoInv { c with cmderr := v } := { h with }

theorem CtoInv.pollLimit (v : Word) : CtoInv { c with pollLimit := v } := { h with }

theorem CtoInv.accept (crystal target : BitVec 8) : CtoInv (c.accept crystal target) :=
  { h with
    fault_busy := fun _ => rfl
    done_idle := nofun
    idle_clear := nofun
    busy_args := fun _ => rfl
    phase_tmp := rfl
    args_held := fun _ => ⟨rfl, rfl⟩ }

/-- END makes the block idle, which a fault forbids: it runs only without one (47 R180). -/
theorem CtoInv.finish (hfault : c.fault = false) (m : Mark) : CtoInv (c.finish m) :=
  { h with
    fault_busy := fun hf => by simp [hfault] at hf
    done_idle := fun _ => rfl
    idle_clear := fun _ => ⟨rfl, rfl, rfl⟩
    busy_args := nofun
    phase_tmp := rfl }

/-- The profile latch and the ready flag are free, and a bank need only be derived from its three Hz values (10 R30). -/
theorem CtoInv.latch (prof : Option ClockScaleProfile) (rdy : Bool) {bank : Bank}
    (hbank : bank = Bank.ofHz bank.ahbHz bank.apb1Hz bank.apb2Hz) :
    CtoInv { c with prof := prof, bank := bank, rdy := rdy } :=
  { h with bank_derived := hbank }

/-! During a run the micro-program counter, the phase and the poll count are free (10 R50). -/

variable (hbusy : c.busy = true)
include hbusy

theorem CtoInv.half (v : Word) : CtoInv { c with ph := true, tmp := some v } :=
  { h with
    idle_clear := fun hidle => by simp [hbusy] at hidle
    phase_tmp := rfl }

theorem CtoInv.polled (n : Word) : CtoInv { c with pollcnt := n } :=
  { h with idle_clear := fun hidle => by simp [hbusy] at hidle }

theorem CtoInv.complete (m : Mark) : CtoInv (c.complete m) :=
  { h with
    idle_clear := fun hidle => by simp [hbusy] at hidle
    phase_tmp := rfl }

theorem CtoInv.raise (f : FaultCause) : CtoInv (c.raise f) :=
  { h with
    fault_busy := fun _ => hbusy
    no_fault_codes := nofun }

end

end Sys2Proof.Safety

namespace Sys2Proof.Machine

open Sys2Proof.Safety

theorem publishedBank_eq_ofHz (q : Params) (crystal : BitVec 8) (p : ClockScaleProfile) :
    publishedBank q crystal p = Bank.ofHz (publishedBank q crystal p).ahbHz (publishedBank q crystal p).apb1Hz
      (publishedBank q crystal p).apb2Hz := rfl

/-! ## What a micro-operation does to the CTO -/

section
variable {i : Instr} {s : State} {c' : Cto} (h : MicroCto i s c')
include h

/-- On the turn of a running sequencer every micro-operation keeps the invariant of the CTO. -/
theorem MicroCto.keeps_ctoInv (hinv : CtoInv s.cto) (hbusy : s.cto.busy = true) (hfault : s.cto.fault = false) :
    CtoInv c' := by
  cases h with
  | half v _ hc => exact hc ▸ hinv.half hbusy v
  | done prof bank rdy _ hbank _ _ _ hc =>
    have hderived : bank = Bank.ofHz bank.ahbHz bank.apb1Hz bank.apb2Hz := by
      rcases hbank with rfl | ⟨m, p, -, -, rfl⟩
      · exact hinv.bank_derived
      · exact publishedBank_eq_ofHz _ _ _
    exact hc ▸ (hinv.latch prof rdy hderived).complete hbusy _
  | raise f n _ _ _ hc => exact hc ▸ (hinv.polled hbusy n).raise hbusy f
  | poll n _ hc => exact hc ▸ hinv.polled hbusy n
  | fin m _ hc => exact hc ▸ hinv.finish hfault m

/-- No micro-operation touches the latched operands (10 R24). -/
theorem MicroCto.operands_eq :
    c'.crystal = s.cto.crystal ∧ c'.target = s.cto.target ∧ c'.argsValid = s.cto.argsValid := by
  cases h <;> subst_vars <;> exact ⟨rfl, rfl, rfl⟩

/-- A micro-operation leaves the profile latch or fills it with the selected entry, if that can be executed (47 R185). -/
theorem MicroCto.prof_cases :
    c'.prof = s.cto.prof ∨
      (c'.prof = some (selectedProfile s) ∧ badProfile s.params.codes (selectedProfile s) = false) := by
  cases h with
  | done prof bank rdy hprof _ _ _ _ hc =>
    subst hc
    exact hprof.imp_right fun ⟨_, _, heq, hgood⟩ => ⟨heq, hgood⟩
  | half v _ hc => exact .inl (hc ▸ rfl)
  | raise f n _ _ _ hc => exact .inl (hc ▸ rfl)
  | poll n _ hc => exact .inl (hc ▸ rfl)
  | fin m _ hc => exact .inl (hc ▸ rfl)

/-- A micro-operation that is no FREQ_PUBLISH leaves the bank (10 R30). -/
theorem MicroCto.bank_cases : c'.bank = s.cto.bank ∨ ∃ m, i = .freqPublish m := by
  cases h with
  | done prof bank rdy _ hbank _ _ _ hc =>
    subst hc
    exact hbank.imp_right fun ⟨m, _, hi, _⟩ => ⟨m, hi⟩
  | half v _ hc => exact .inl (hc ▸ rfl)
  | raise f n _ _ _ hc => exact .inl (hc ▸ rfl)
  | poll n _ hc => exact .inl (hc ▸ rfl)
  | fin m _ hc => exact .inl (hc ▸ rfl)

end

/-! ## What a host instruction does to the CTO -/

theorem HostCto.bank_eq {s : State} {c' : Cto} (h : HostCto s c') : c'.bank = s.cto.bank := by
  cases h <;> subst_vars <;> rfl

/-- With a fault present CONFIGURE is refused, so the host moves its verdict and POLL_LIMIT only (10 R26, 48 R202). -/
theorem HostCto.eq_of_fault {s : State} {c' : Cto} (h : HostCto s c') (hfault : s.cto.fault = true) :
    c' = { s.cto with cmderr := c'.cmderr, pollLimit := c'.pollLimit } := by
  cases h with
  | verdict v hc => rw [hc]
  | limit v hc => rw [hc]
  | same hc => rw [hc]
  | accept crystal target _ hclear => simp [hfault] at hclear

end Sys2Proof.Machine

namespace Sys2Proof.Safety

open Sys2Proof.Machine

/-! ## The machine's invariant -/

/-- The invariant of the machine where the CTO is at reset: nothing is latched. -/
theorem Inv.of_reset {s : State} (hcto : s.cto = Cto.reset) (hmem : Memory.wf s.mem = true) : Inv s where
  cto := hcto ▸ CtoInv.reset
  mem := hmem
  operands hargs := by simp [hcto, Cto.reset] at hargs
  profile p hp := by simp [hcto, Cto.reset] at hp

/-- A step that leaves parameters and operands, and latches no profile but the selected one if it can be executed, keeps
the invariant of the machine when it keeps that of the CTO and the canonical memory. -/
theorem Inv.of_same_operands {s t : State} (h : Inv s) (hcto : CtoInv t.cto) (hmem : Memory.wf t.mem = true)
    (hparams : t.params = s.params)
    (hops : t.cto.crystal = s.cto.crystal ∧ t.cto.target = s.cto.target ∧ t.cto.argsValid = s.cto.argsValid)
    (hprof : t.cto.prof = s.cto.prof ∨
      (t.cto.prof = some (selectedProfile s) ∧ badProfile s.params.codes (selectedProfile s) = false)) : Inv t := by
  obtain ⟨hcrystal, htarget, hargs⟩ := hops
  have hcc : t.cto.crystalCode = s.cto.crystalCode := by unfold Cto.crystalCode; rw [hcrystal]
  have htc : t.cto.targetCode = s.cto.targetCode := by unfold Cto.targetCode; rw [htarget]
  have hsel : selectedProfile t = selectedProfile s := by unfold selectedProfile; rw [hcc, htc, hparams]
  refine ⟨hcto, hmem, ?_, fun p hp => ?_⟩
  · rw [hargs, hcc, htc, hparams]
    exact h.operands
  · rw [hsel, hparams]
    rcases hprof with heq | ⟨heq, hgood⟩
    · exact h.profile p (heq ▸ hp)
    · obtain rfl : selectedProfile s = p := Option.some.inj (heq.symm.trans hp)
      exact ⟨rfl, hgood⟩

/-- Taking a turn from the list keeps the invariant, which does not speak of the list. -/
theorem Inv.agenda {s : State} (h : Inv s) (l : List Turn) : Inv { s with agenda := l } :=
  h.of_same_operands h.cto h.mem rfl ⟨rfl, rfl, rfl⟩ (.inl rfl)

/-- Every micro-operation of a running sequencer keeps the invariant of the machine. -/
theorem Inv.micro {i : Instr} {s t : State} (h : Inv s) (hstep : MicroStep i s t) (hbusy : s.cto.busy = true)
    (hfault : s.cto.fault = false) : Inv t :=
  h.of_same_operands (hstep.cto.keeps_ctoInv h.cto hbusy hfault) (hstep.mem h.mem) hstep.params
    hstep.cto.operands_eq hstep.cto.prof_cases

/-- Acceptance latches operands that it has checked and empties the profile latch (48 R202). -/
theorem Inv.accept {s t : State} (h : Inv s) (crystal target : BitVec 8) (hmem : t.mem = s.mem)
    (hparams : t.params = s.params) (hc : crystal.toNat < s.params.ncrystal) (ht : target.toNat < s.params.ntarget)
    (hcto : t.cto = s.cto.accept crystal target) : Inv t where
  cto := hcto ▸ h.cto.accept crystal target
  mem := hmem ▸ h.mem
  operands _ := by
    rw [hcto, hparams]
    exact ⟨hc, ht⟩
  profile p hp := by simp [hcto] at hp

/-- Every host access keeps the invariant of the machine. -/
theorem Inv.host {s t : State} (h : Inv s) (hstep : HostStep s t) : Inv t := by
  have hmem : Memory.wf t.mem = true := hstep.mem ▸ h.mem
  cases hstep.cto with
  | verdict v hc =>
    exact h.of_same_operands (hc ▸ h.cto.verdict v) hmem hstep.params (by simp [hc]) (by simp [hc])
  | limit v hc =>
    exact h.of_same_operands (hc ▸ h.cto.pollLimit v) hmem hstep.params (by simp [hc]) (by simp [hc])
  | same hc => exact h.of_same_operands (hc ▸ h.cto) hmem hstep.params (by simp [hc]) (by simp [hc])
  | accept crystal target _ _ hcrystal htarget hc =>
    exact h.accept crystal target hstep.mem hstep.params hcrystal htarget hc

end Sys2Proof.Safety

namespace Sys2Proof.Claims

open Sys2Proof Sys2Proof.Machine Sys2Proof.Safety

/-- Settles O50: by the six ways of a step, each of which has its lemma. -/
theorem stepKeepsTheInvariants : Obligations.StepKeepsTheInvariants := by
  unfold Obligations.StepKeepsTheInvariants
  intro s t hinv hstep
  have hs : Inv { s with agenda := s.agenda.tail } := hinv.agenda _
  cases step_cases hstep with
  | idle ht => exact ht ▸ hs
  | illegal r _ hbusy _ _ ht =>
    subst ht
    exact hs.of_same_operands (hs.cto.raise hbusy _) hs.mem rfl ⟨rfl, rfl, rfl⟩ (.inl rfl)
  | micro i _ hbusy hfault _ hmicro => exact hs.micro hmicro hbusy hfault
  | host a _ hhost => exact hs.host hhost
  | reset _ ht =>
    subst ht
    exact Inv.of_reset rfl hs.mem
  | foreign a v _ _ ht =>
    subst ht
    exact hinv.of_same_operands hinv.cto (Memory.write_wf _ _ _ _ hinv.mem) rfl ⟨rfl, rfl, rfl⟩ (.inl rfl)

/-- Settles O46: none of the six ways of a step touches the read-only stores. -/
theorem readOnlyStoresNeverChange : Obligations.ReadOnlyStoresNeverChange := by
  unfold Obligations.ReadOnlyStoresNeverChange
  intro s t hstep
  cases step_cases hstep with
  | idle ht => subst ht; exact ⟨rfl, rfl⟩
  | illegal r _ _ _ _ ht => subst ht; exact ⟨rfl, rfl⟩
  | micro i _ _ _ _ hmicro => exact ⟨hmicro.urom, hmicro.params⟩
  | host a _ hhost => exact ⟨hhost.urom, hhost.params⟩
  | reset _ ht => subst ht; exact ⟨rfl, rfl⟩
  | foreign a v _ _ ht => subst ht; exact ⟨rfl, rfl⟩

/-- Settles O48: the bank stays in every other way of a step. -/
theorem onlyPublicationWritesTheBank : Obligations.OnlyPublicationWritesTheBank := by
  unfold Obligations.OnlyPublicationWritesTheBank
  intro s t hstep hbank
  cases step_cases hstep with
  | idle ht => exact absurd (ht ▸ rfl) hbank
  | illegal r _ _ _ _ ht => exact absurd (ht ▸ rfl) hbank
  | micro i hturn hbusy hfault hdecode hmicro =>
    obtain ⟨m, rfl⟩ := hmicro.cto.bank_cases.resolve_left hbank
    exact .inr ⟨hturn, hbusy, hfault, m, hdecode⟩
  | host a _ hhost => exact absurd hhost.cto.bank_eq hbank
  | reset hturn _ => exact .inl hturn
  | foreign a v _ _ ht => exact absurd (ht ▸ rfl) hbank

/-- Settles O49: a faulted sequencer has no step, and the host moves its verdict and POLL_LIMIT only. -/
theorem faultIsSticky : Obligations.FaultIsSticky := by
  unfold Obligations.FaultIsSticky
  intro s t hfault hnoReset hstep
  cases step_cases hstep with
  | idle ht => subst ht; exact ⟨rfl, rfl⟩
  | illegal r _ _ hclear _ _ => simp [hfault] at hclear
  | micro i _ _ hclear _ _ => simp [hfault] at hclear
  | host a _ hhost => exact ⟨hhost.cto.eq_of_fault hfault, hhost.trace⟩
  | reset hturn _ => exact absurd hturn hnoReset
  | foreign a v _ _ ht => subst ht; exact ⟨rfl, rfl⟩

/-- A reader of the empty profile latch answers the state with NoProfile raised and nothing else changed (10 R25). -/
theorem withProfile_faultedWith {s : State} (h : s.cto.prof = none) (k : ClockScaleProfile → State) :
    Host.Outcome.next (φ := Fault) (ρ := Refusal) (withProfile s k) = .next { s with cto := faultedWith s.cto 6 0 } := by
  rw [withProfile_none s k h]
  rfl

/-- Settles O22: each reader goes through the latch before it looks at the phase or makes a transaction. -/
theorem emptyProfileFaultsFirst : Obligations.EmptyProfileFaultsFirst := by
  unfold Obligations.EmptyProfileFaultsFirst
  intro s m ic dc hprof i hi
  simp only [List.mem_cons, List.not_mem_nil, or_false] at hi
  rcases hi with rfl | rfl | rfl | rfl | rfl | rfl | rfl <;> exact withProfile_faultedWith hprof _

/-- Settles O43: a turn of reset is `resetCto`, whose values are those of 10 R49. -/
theorem resetRestoresTheCtoOnly : Obligations.ResetRestoresTheCtoOnly := by
  unfold Obligations.ResetRestoresTheCtoOnly
  intro s rest hparams hagenda
  rw [step_of_agenda_cons hparams hagenda]
  rfl

/-- Settles O51: at launch the CTO is at reset and memory is empty. -/
theorem launchMeetsTheInvariants : Obligations.LaunchMeetsTheInvariants := by
  unfold Obligations.LaunchMeetsTheInvariants
  have hlaunch : ∀ p : Params, Inv (State.launch p) := fun _ => Inv.of_reset rfl rfl
  exact ⟨hlaunch, hlaunch t0⟩

/-- Settles O53: at launch no run is in progress, none has ended and no fault is recorded. -/
theorem launchMeetsTheSequence : Obligations.LaunchMeetsTheSequence := by
  unfold Obligations.LaunchMeetsTheSequence
  intro p hhsi hpll
  exact
    { fixed := rfl
      switchable := ⟨hhsi, hpll⟩
      progress := nofun
      latched := nofun
      finished := nofun
      published := nofun
      causes := (by decide : Cto.reset.faultCode ≠ FaultCause.code .illegalUop ∧
        Cto.reset.faultCode ≠ FaultCause.code .noProfile) }

end Sys2Proof.Claims
end

section
/-! Proofs for the family of spec/20_memory.md: the ports, foreign writes, and what the environment answers a poll. -/

namespace Sys2Proof.Machine

/-! ## Primitives at a named address, and at any other -/

theorem atNamed_of_named {s : State} {a : Addr} (h : named s.params.regs a = true) (k : State) :
    atNamed s a k = .next k := by
  simp [atNamed, h]

theorem atNamed_of_not_named {s : State} {a : Addr} (h : named s.params.regs a = false) (k : State) :
    atNamed s a k = .fault (.noSuchRegister a) := by
  simp [atNamed, h]

/-- The first half of RF_SET_BITS is the read (40 R122). -/
theorem exec_rfSetBits_first {s : State} {a : Addr} (hn : named s.params.regs a = true) (hph : s.cto.ph = false)
    (k : Word) : exec (.rfSetBits a k) s = .next (rmwRead s a) :=
  (atNamed_of_named hn _).trans (by rw [rmw_first _ _ _ _ hph])

/-- The second half of RF_SET_BITS writes the word held, with the bits set (40 R122). -/
theorem exec_rfSetBits_second {s : State} {a : Addr} (hn : named s.params.regs a = true) (hph : s.cto.ph = true)
    (k : Word) : exec (.rfSetBits a k) s = .next (endPrimitive (afterWrite s a (setBits s.cto.held k))) :=
  (atNamed_of_named hn _).trans (by rw [rmw_second _ _ _ _ hph])

/-! ## Foreign writes -/

/-- Outside a run a foreign write to a named word is a change of storage alone (20 R79). -/
theorem foreignTurn_of_idle {s : State} {a : Addr} (hbusy : s.cto.busy = false) (hn : named s.params.regs a = true)
    (v : Word) : foreignTurn a v s = .next { s with mem := s.mem.write s.params.regs a v } := by
  simp [foreignTurn, hbusy, hn]

/-! ## One poll -/

/-- A poll of a ready bit that reads 1 completes the wait (41 R133). -/
theorem exec_oscWaitReady_of_ready {s : State} {src : ClockSource} (hp : RegMap.wf s.params.regs = true)
    (h : (readValue s (.pollReady src) (s.params.regs.rdy.get src).addr).getLsbD (s.params.regs.rdy.get src).bit = true)
    (m : Mark) :
    exec (.oscWaitReady src m) s =
      .next (complete m (afterRead s (.pollReady src) (s.params.regs.rdy.get src).addr)) :=
  congrArg Host.Outcome.next
    (poll_ok _ _ _ _ _ _ ((testBits_bitMask _ _ (ready_bit_lt hp src)).trans h))

/-! ## The host port -/

/-- The port's encoding of an access of the register at offset `4 * k` (20 R62). -/
theorem hostEncoding_of_register {base k : Nat} {a : HostAccess} (hk : k < 16) (hbytes : a.bytes = 4)
    (haddr : a.addr = base + 4 * k) :
    hostEncoding base a =
      some (if a.we then .hostWrite (BitVec.ofNat 4 k) a.data else .hostRead (BitVec.ofNat 4 k)) := by
  have hoff : (a.addr - base) / 4 = k := by omega
  unfold hostEncoding
  rw [if_pos (by omega), hoff]

/-- The host's turn runs the instruction that the port's decoder has for a register (48 R200). -/
theorem hostTurn_of_register {s : State} {k : Nat} {a : HostAccess} {i : Instr} (hk : k < 16) (hbytes : a.bytes = 4)
    (haddr : a.addr = s.params.hostBase + 4 * k)
    (hi : (if a.we = true then decodeHostWrite (BitVec.ofNat 4 k) a.data else decodeHostRead (BitVec.ofNat 4 k)) =
      .ok i) :
    hostTurn a s = exec i s := by
  have hdecode : decode s.params.codes.sw
      (if a.we then .hostWrite (BitVec.ofNat 4 k) a.data else .hostRead (BitVec.ofNat 4 k)) = .ok i := by
    rw [← hi]
    split <;> rfl
  simp only [hostTurn, hostEncoding_of_register hk hbytes haddr, hdecode]

/-- The host access that carries an encoding runs the instruction it decodes to. -/
theorem hostTurn_of_accessOf {s : State} {e : Encoding} {a : HostAccess} {i : Instr}
    (ha : hostAccessOf s.params.hostBase e = some a) (hi : decode s.params.codes.sw e = .ok i) :
    hostTurn a s = exec i s := by
  cases e with
  | micro w => cases ha
  | bus we => cases ha
  | command w =>
    cases ha
    exact hostTurn_of_register (k := 0) (by omega) rfl rfl hi
  | hostRead reg =>
    cases ha
    exact hostTurn_of_register reg.isLt rfl rfl (by simpa [decode] using hi)
  | hostWrite reg w =>
    cases ha
    exact hostTurn_of_register reg.isLt rfl rfl (by simpa [decode] using hi)

/-! ## Decode after encode on the host port -/

section
variable (opc : BitVec 4) (crystal target : BitVec 8) (lo : BitVec 4) (hi : BitVec 8)

/-! The fields of a command word are those it was made of (30 R97). -/

theorem commandWord_opc : (commandWord opc crystal target lo hi).extractLsb' 0 4 = opc :=
  BitVec.extractLsb'_append_eq_right

theorem commandWord_rsvLo : (commandWord opc crystal target lo hi).extractLsb' 4 4 = lo := by
  rw [commandWord, BitVec.extractLsb'_append_eq_of_le (by decide), BitVec.extractLsb'_append_eq_right]

theorem commandWord_crystal : (commandWord opc crystal target lo hi).extractLsb' 8 8 = crystal := by
  rw [commandWord, BitVec.extractLsb'_append_eq_of_le (by decide), BitVec.extractLsb'_append_eq_of_le (by decide),
    BitVec.extractLsb'_append_eq_right]

theorem commandWord_target : (commandWord opc crystal target lo hi).extractLsb' 16 8 = target := by
  rw [commandWord, BitVec.extractLsb'_append_eq_of_le (by decide), BitVec.extractLsb'_append_eq_of_le (by decide),
    BitVec.extractLsb'_append_eq_of_le (by decide), BitVec.extractLsb'_append_eq_right]

theorem commandWord_rsvHi : (commandWord opc crystal target lo hi).extractLsb' 24 8 = hi := by
  rw [commandWord, BitVec.extractLsb'_append_eq_of_le (by decide), BitVec.extractLsb'_append_eq_of_le (by decide),
    BitVec.extractLsb'_append_eq_of_le (by decide), BitVec.extractLsb'_append_eq_left]

theorem decodeH_commandWord_configure :
    decodeH (commandWord 1 crystal target lo hi) = .configure crystal target lo hi := by
  unfold decodeH
  rw [commandWord_opc, commandWord_rsvLo, commandWord_crystal, commandWord_target, commandWord_rsvHi]
  rfl

end

/-- Decode after encode on the two formats of the host port (30 R107). -/
theorem decode_encode_host (sw : PerSource (Option Word)) {i : Instr}
    (hformat : i.format = .h ∨ i.format = .hq) : decode sw (encode i) = .ok i := by
  cases i <;> simp only [Instr.format, reduceCtorEq, or_self] at hformat
  case configure crystal target lo hi => exact congrArg Except.ok (decodeH_commandWord_configure crystal target lo hi)
  all_goals rfl

end Sys2Proof.Machine

namespace Sys2Proof.Claims

open Sys2Proof Sys2Proof.Machine Sys2Proof.Safety

/-- `Complete(mark)` of the model is that of the statements (47 R181). -/
theorem complete_eq_completed (c : Cto) (m : Mark) : c.complete m = Claims.completed c m := by
  cases m <;> rfl

/-- Settles O7: the poll reads the enable bit, which is set. -/
theorem nominalWaitSucceedsAtOnce : Obligations.NominalWaitSucceedsAtOnce := by
  unfold Obligations.NominalWaitSucceedsAtOnce
  intro s src m hp henv hen
  have hregs := paramsWf_regs hp
  have hready := (nominal_ready hregs henv (.pollReady src) src).trans hen
  exact ⟨_, exec_oscWaitReady_of_ready hregs hready m, complete_eq_completed s.cto m⟩

/-- Settles O37: the write half stores the word read before the foreign write, with the mask's bits set. -/
theorem readModifyWriteLosesForeignWrite : Obligations.ReadModifyWriteLosesForeignWrite := by
  unfold Obligations.ReadModifyWriteLosesForeignWrite
  intro s a k v hn hmem hph hbusy
  have hread := exec_rfSetBits_first hn hph k
  have hforeign := foreignTurn_of_idle (s := rmwRead s a) hbusy hn v
  have hwrite := exec_rfSetBits_second
    (s := { rmwRead s a with mem := (rmwRead s a).mem.write s.params.regs a v }) hn rfl k
  refine ⟨_, _, _, hread, hforeign, hwrite, fun b hb => ?_⟩
  have hwritten := Memory.storage_bit_write _ s.params.regs a (setBits (readValue s .plain a) k) b
    (Memory.write_wf _ s.params.regs a v hmem) hb
  calc _ = (setBits (readValue s .plain a) k).getLsbD b := hwritten
    _ = ((readValue s .plain a).getLsbD b || k.getLsbD b) := BitVec.getLsbD_or
    _ = ((s.mem.word a).getLsbD b || k.getLsbD b) := by rw [readValue_storage_bit s .plain a b hb]

/-- Settles O45: a foreign write is `Memory.write` and nothing else. -/
theorem foreignWriteOutsideARun : Obligations.ForeignWriteOutsideARun := by
  unfold Obligations.ForeignWriteOutsideARun
  intro s rest a v hsound ha hbusy hn
  obtain ⟨hmem, hp⟩ := hsound
  refine ⟨{ s with agenda := rest, mem := s.mem.write s.params.regs a v },
    ?_, rfl, rfl, fun n hout => ?_, rfl, rfl, rfl, rfl, rfl, rfl, fun b hb => ?_, fun b hb => ?_⟩
  · rw [step_of_agenda_cons hp ha]
    exact foreignTurn_of_idle (s := { s with agenda := rest }) hbusy hn v
  · exact Memory.byte_write_outside _ _ a v n hmem hout
  · exact Memory.storage_bit_write _ _ a v b hmem hb
  · exact Memory.status_bit_write _ _ a v b hmem (Bool.eq_true_of_not_eq_false hb)

/-- Settles O38: each primitive looks at the address before it does anything. -/
theorem unnamedAddressStops : Obligations.UnnamedAddressStops := by
  unfold Obligations.UnnamedAddressStops
  intro s a k m sh v hn i hi
  simp only [List.mem_cons, List.not_mem_nil, or_false] at hi
  rcases hi with rfl | rfl | rfl | rfl | rfl | rfl <;> exact atNamed_of_not_named hn _

/-- Settles O40: a write of CMD is an access of register 0, and the access that encodes an instruction decodes back to
it. -/
theorem stepRunsTheHostAccess : Obligations.StepRunsTheHostAccess := by
  unfold Obligations.StepRunsTheHostAccess
  intro s rest a hp ha
  rw [step_of_agenda_cons hp ha]
  refine ⟨fun hwe hbytes haddr => ?_, fun k i hk hbytes haddr hi => ?_, fun i hformat haccess => ?_⟩
  · exact hostTurn_of_register (k := 0) (by omega) hbytes haddr (by rw [if_pos hwe]; rfl)
  · exact hostTurn_of_register hk hbytes haddr hi
  · exact hostTurn_of_accessOf haccess (decode_encode_host _ hformat)

end Sys2Proof.Claims
end

section
/-! Proofs for the family of spec/30_encoding.md: the decoder and the encoder are inverse to each other, and which
micro-words are illegal. -/

namespace Sys2Proof

/-! ## Codes of the closed enumerations -/

theorem ClockSource.ofCode_eq_some_iff {c : BitVec 3} {src : ClockSource} :
    ClockSource.ofCode c = some src ↔ c = src.code := by
  cases src <;> revert c <;> decide

theorem ClockSource.ofCode_eq_none_iff {c : BitVec 3} : ClockSource.ofCode c = none ↔ c = 7 := by
  revert c
  decide

/-- A field holds a mark exactly when it is the code of one that some micro-operation may carry (30 R94). -/
theorem Mark.ofCode_eq_some_iff {c : BitVec 4} {m : Mark} : Mark.ofCode c = some m ↔ m.ok = true ∧ c = m.code := by
  cases m with
  | keep => revert c; decide
  | enter st => cases st <;> revert c <;> decide

theorem Mark.ofCode_eq_none_iff {c : BitVec 4} : Mark.ofCode c = none ↔ c.toNat = 0 ∨ c.toNat = 14 := by
  revert c
  decide

/-! ## The fields of a micro-word (30 R91) -/

section
variable (op : BitVec 4) (src : BitVec 3) (sel : BitVec 2) (m : Mark)

@[simp] theorem uMark_microWord : uMark (microWord op src sel m) = m.code :=
  BitVec.extractLsb'_append_eq_right

@[simp] theorem uRsv_microWord : uRsv (microWord op src sel m) = 0 := by
  rw [uRsv, microWord, BitVec.extractLsb'_append_eq_of_le (by decide)]
  exact BitVec.extractLsb'_append_eq_right

@[simp] theorem uSel_microWord : uSel (microWord op src sel m) = sel := by
  rw [uSel, microWord, BitVec.extractLsb'_append_eq_of_le (by decide), BitVec.extractLsb'_append_eq_of_le (by decide)]
  exact BitVec.extractLsb'_append_eq_right

@[simp] theorem uSrc_microWord : uSrc (microWord op src sel m) = src := by
  rw [uSrc, microWord, BitVec.extractLsb'_append_eq_of_le (by decide), BitVec.extractLsb'_append_eq_of_le (by decide),
    BitVec.extractLsb'_append_eq_of_le (by decide)]
  exact BitVec.extractLsb'_append_eq_right

@[simp] theorem uOp_microWord : uOp (microWord op src sel m) = op := by
  rw [uOp, microWord, BitVec.extractLsb'_append_eq_of_le (by decide), BitVec.extractLsb'_append_eq_of_le (by decide),
    BitVec.extractLsb'_append_eq_of_le (by decide)]
  exact BitVec.extractLsb'_append_eq_left

end

/-- A micro-word is the concatenation of its five fields. -/
theorem uFields_append (w : MicroWord) : uOp w ++ uSrc w ++ uSel w ++ uRsv w ++ uMark w = w := by
  simp only [uOp, uSrc, uSel, uRsv, uMark]
  rw [BitVec.extractLsb'_append_extractLsb'_eq_extractLsb' (show 12 = 9 + 3 from rfl),
    BitVec.extractLsb'_append_extractLsb'_eq_extractLsb' (show 9 = 7 + 2 from rfl),
    BitVec.extractLsb'_append_extractLsb'_eq_extractLsb' (show 7 = 4 + 3 from rfl),
    BitVec.extractLsb'_append_extractLsb'_eq_extractLsb' (show 4 = 0 + 4 from rfl), BitVec.extractLsb'_eq_self]

/-- A micro-word is known by its fields. -/
theorem microWord_eq {w : MicroWord} {op : BitVec 4} {src : BitVec 3} {sel : BitVec 2} {m : Mark} (hop : uOp w = op)
    (hsrc : uSrc w = src) (hsel : uSel w = sel) (hrsv : uRsv w = 0) (hmark : uMark w = m.code) :
    microWord op src sel m = w := by
  have happend := uFields_append w
  rwa [hop, hsrc, hsel, hrsv, hmark] at happend

/-! ## When a decoder of format U answers an instruction, and which -/

section
variable {sw : PerSource (Option Word)} {w : MicroWord} {i j : Instr}

@[simp] theorem decodeWithSource_eq_ok_iff {k : ClockSource → Except Reject Instr} :
    decodeWithSource w k = .ok i ↔ uSel w = 0 ∧ ∃ src, uSrc w = src.code ∧ k src = .ok i := by
  simp only [← ClockSource.ofCode_eq_some_iff]
  unfold decodeWithSource
  split
  · simp_all
  · cases hsrc : ClockSource.ofCode (uSrc w) <;> simp_all

@[simp] theorem decodeSelectable_eq_ok_iff {f : ClockSource → Instr} {src : ClockSource} :
    decodeSelectable sw f src = .ok i ↔ (sw.get src).isSome = true ∧ f src = i := by
  unfold decodeSelectable
  split <;> simp_all

@[simp] theorem decodeNoSource_eq_ok_iff {k : Except Reject Instr} :
    decodeNoSource w k = .ok i ↔ uSrc w = 0 ∧ k = .ok i := by
  unfold decodeNoSource
  split <;> simp_all

@[simp] theorem decodePlain_eq_ok_iff : decodePlain w j = .ok i ↔ uSrc w = 0 ∧ uSel w = 0 ∧ j = i := by
  unfold decodePlain
  rw [decodeNoSource_eq_ok_iff]
  split <;> simp_all

/-- Reserved bits and mark come first, then the opcode's own fields (30 R107). -/
theorem decodeU_eq_ok_iff :
    decodeU sw w = .ok i ↔ uRsv w = 0 ∧ ∃ m, m.ok = true ∧ uMark w = m.code ∧ decodeOp sw w m = .ok i := by
  simp only [← and_assoc (b := _ = Mark.code _), ← Mark.ofCode_eq_some_iff]
  unfold decodeU
  split
  · simp_all
  · cases hmark : Mark.ofCode (uMark w) <;> simp_all

end

/-! ## Decode after encode -/

/-- A micro-word made with a legal mark decodes by its opcode's own fields. -/
theorem decodeU_microWord (sw : PerSource (Option Word)) {op : BitVec 4} {src : BitVec 3} {sel : BitVec 2} {m : Mark}
    {i : Instr} (hm : m.ok = true) (h : decodeOp sw (microWord op src sel m) m = .ok i) :
    decodeU sw (microWord op src sel m) = .ok i :=
  decodeU_eq_ok_iff.2 ⟨uRsv_microWord .., m, hm, uMark_microWord .., h⟩

/-- The two cache bits of FLASH_SET_WS are the two bits of `sel` (30 R93). -/
theorem ofBool_append_getLsbD (c : BitVec 2) : BitVec.ofBool (c.getLsbD 1) ++ BitVec.ofBool (c.getLsbD 0) = c := by
  revert c
  decide

/-- Decode after encode on the micro-operations (30 R107). -/
theorem decode_encode_micro {sw : PerSource (Option Word)} {i : Instr} (hformat : i.format = .u)
    (hwf : WellFormed sw i = true) : decode sw (encode i) = .ok i := by
  cases i <;> simp only [Instr.format, reduceCtorEq] at hformat <;>
    simp only [WellFormed, Bool.and_eq_true] at hwf
  case swSelect src m | swWait src m =>
    obtain ⟨hsw, hm⟩ := hwf
    exact decodeU_microWord sw hm (by simp [decodeOp, hsw])
  case flashSetWs ic dc m => exact decodeU_microWord sw hwf (by cases ic <;> cases dc <;> simp [decodeOp])
  all_goals exact decodeU_microWord sw hwf (by simp [decodeOp])

/-! ## Encode after decode -/

/-- What the decoder answers is well-formed and encodes back to the word (30 R107). -/
theorem encode_decodeU {sw : PerSource (Option Word)} {w : MicroWord} {i : Instr} (h : decodeU sw w = .ok i) :
    encode i = .micro w ∧ WellFormed sw i = true := by
  obtain ⟨hrsv, m, hm, hmark, hop⟩ := decodeU_eq_ok_iff.1 h
  have hword : ∀ {op : BitVec 4} {src : BitVec 3} {sel : BitVec 2}, (uOp w).toNat = op.toNat → uSrc w = src →
      uSel w = sel → Encoding.micro (microWord op src sel m) = .micro w :=
    fun hop hsrc hsel => congrArg _ (microWord_eq (BitVec.eq_of_toNat_eq hop) hsrc hsel hrsv hmark)
  unfold decodeOp at hop
  split at hop
  case h_1 hcode | h_2 hcode | h_3 hcode | h_4 hcode =>
    obtain ⟨hsel, src, hsrc, hi⟩ := decodeWithSource_eq_ok_iff.1 hop
    cases hi
    exact ⟨hword hcode hsrc hsel, hm⟩
  case h_5 hcode | h_6 hcode =>
    obtain ⟨hsel, src, hsrc, hi⟩ := decodeWithSource_eq_ok_iff.1 hop
    obtain ⟨hsw, rfl⟩ := decodeSelectable_eq_ok_iff.1 hi
    exact ⟨hword hcode hsrc hsel, by simp [WellFormed, hsw, hm]⟩
  case h_9 hcode =>
    obtain ⟨hsrc, hi⟩ := decodeNoSource_eq_ok_iff.1 hop
    split at hi <;> cases hi
    case h_1 hbus | h_2 hbus | h_3 hbus => exact ⟨hword hcode hsrc (BitVec.eq_of_toNat_eq hbus), hm⟩
  case h_11 hcode =>
    obtain ⟨hsrc, hi⟩ := decodeNoSource_eq_ok_iff.1 hop
    cases hi
    exact ⟨hword hcode hsrc (ofBool_append_getLsbD _).symm, hm⟩
  case h_7 hcode | h_8 hcode | h_10 hcode | h_12 hcode | h_13 hcode =>
    obtain ⟨hsrc, hsel, rfl⟩ := decodePlain_eq_ok_iff.1 hop
    exact ⟨hword hcode hsrc hsel, hm⟩
  case h_14 => cases hop

/-! ## The illegal micro-words (30 R101) -/

section
variable {sw : PerSource (Option Word)} {w : MicroWord}

theorem decodeWithSource_eq_error_iff {k : ClockSource → Except Reject Instr} :
    (∃ r, decodeWithSource w k = .error r) ↔
      uSel w ≠ 0 ∨ uSrc w = 7 ∨ ∃ src, ClockSource.ofCode (uSrc w) = some src ∧ ∃ r, k src = .error r := by
  rw [← ClockSource.ofCode_eq_none_iff]
  unfold decodeWithSource
  split
  · simp_all
  · cases hsrc : ClockSource.ofCode (uSrc w) <;> simp_all

theorem decodeSelectable_eq_error_iff {f : ClockSource → Instr} {src : ClockSource} :
    (∃ r, decodeSelectable sw f src = .error r) ↔ sw.get src = none := by
  cases hsw : sw.get src <;> simp [decodeSelectable, hsw]

theorem decodeNoSource_eq_error_iff {k : Except Reject Instr} :
    (∃ r, decodeNoSource w k = .error r) ↔ uSrc w ≠ 0 ∨ ∃ r, k = .error r := by
  unfold decodeNoSource
  split <;> simp_all

theorem decodePlain_eq_error_iff {i : Instr} :
    (∃ r, decodePlain w i = .error r) ↔ uSrc w ≠ 0 ∨ uSel w ≠ 0 := by
  unfold decodePlain
  rw [decodeNoSource_eq_error_iff]
  split <;> simp_all

/-- A source that must be selectable is illegal when its code names none, or names one that cannot be SYSCLK. -/
theorem unselectable_source_iff :
    (uSrc w = 7 ∨ ∃ src, ClockSource.ofCode (uSrc w) = some src ∧ sw.get src = none) ↔
      ∀ src, ClockSource.ofCode (uSrc w) = some src → sw.get src = none := by
  rw [← ClockSource.ofCode_eq_none_iff]
  cases ClockSource.ofCode (uSrc w) <;> simp

variable (sw w) in
/-- The clauses of 30 R101 on the opcode and its own fields. -/
def OpFieldsIllegal : Prop :=
  (uOp w).toNat = 0 ∨ (uOp w).toNat = 14 ∨ (uOp w).toNat = 15 ∨
  ((uOp w).toNat ≤ 6 ∧ uSrc w = 7) ∨
  (((uOp w).toNat = 5 ∨ (uOp w).toNat = 6) ∧
    ∀ src, ClockSource.ofCode (uSrc w) = some src → sw.get src = none) ∨
  (6 < (uOp w).toNat ∧ uSrc w ≠ 0) ∨
  ((uOp w).toNat ≠ 9 ∧ (uOp w).toNat ≠ 11 ∧ uSel w ≠ 0) ∨
  ((uOp w).toNat = 9 ∧ uSel w = 3)

theorem decodeOp_eq_error_iff {m : Mark} : (∃ r, decodeOp sw w m = .error r) ↔ OpFieldsIllegal sw w := by
  unfold decodeOp
  split
  case h_1 hcode | h_2 hcode | h_3 hcode | h_4 hcode =>
    rw [decodeWithSource_eq_error_iff]
    simp [OpFieldsIllegal, hcode, or_comm]
  case h_5 hcode | h_6 hcode =>
    have habsorb := fun hsrc : uSrc w = 7#3 => unselectable_source_iff (sw := sw).1 (.inl hsrc)
    simp only [decodeWithSource_eq_error_iff, decodeSelectable_eq_error_iff, unselectable_source_iff]
    simpa [OpFieldsIllegal, hcode, ← or_assoc, or_iff_right_of_imp habsorb] using or_comm
  case h_9 hcode =>
    rw [decodeNoSource_eq_error_iff]
    have hsel : uSel w = 3#2 ↔ (uSel w).toNat = 3 := BitVec.toNat_inj.symm
    split
    case h_1 hbus | h_2 hbus | h_3 hbus => simp [OpFieldsIllegal, hcode, hsel, hbus]
    case h_4 =>
      have hbus : (uSel w).toNat = 3 := by
        have hlt := (uSel w).isLt
        simp only [imp_false] at *
        omega
      simp [OpFieldsIllegal, hcode, hsel, hbus]
  case h_11 hcode =>
    rw [decodeNoSource_eq_error_iff]
    simp [OpFieldsIllegal, hcode]
  case h_7 hcode | h_8 hcode | h_10 hcode | h_12 hcode | h_13 hcode =>
    rw [decodePlain_eq_error_iff]
    simp [OpFieldsIllegal, hcode]
  case h_14 =>
    have hlt := (uOp w).isLt
    have hop : (uOp w).toNat = 0 ∨ (uOp w).toNat = 14 ∨ (uOp w).toNat = 15 := by
      simp only [imp_false] at *
      omega
    simp only [OpFieldsIllegal, ← or_assoc] at hop ⊢
    simp [hop]

/-- A micro-word is illegal by its reserved bits, its mark, or its opcode's own fields. -/
theorem decodeU_eq_error_iff : (∃ r, decodeU sw w = .error r) ↔
    uRsv w ≠ 0 ∨ (uMark w).toNat = 0 ∨ (uMark w).toNat = 14 ∨ OpFieldsIllegal sw w := by
  rw [← or_assoc (b := _ = 14), ← Mark.ofCode_eq_none_iff]
  unfold decodeU
  split
  · simp_all
  · cases hmark : Mark.ofCode (uMark w) <;> simp_all [decodeOp_eq_error_iff]

end

end Sys2Proof

namespace Sys2Proof.Machine

/-! ## The sequencer's turn -/

/-- With an admitted configuration and no turn listed, the sequencer has the turn. -/
theorem step_of_agenda_nil {s : State} (hp : paramsWf s.params = true) (ha : s.agenda = []) :
    step s = sequencerTurn s := by
  simp [step, turn, hp, ha]

/-- A running sequencer that fetches an illegal word raises IllegalUop (30 R101). -/
theorem sequencerTurn_of_illegal {s : State} {r : Reject} (hbusy : s.cto.busy = true) (hfault : s.cto.fault = false)
    (h : decodeU s.params.codes.sw (fetch s) = .error r) : sequencerTurn s = .next (raise .illegalUop s) := by
  simp [sequencerTurn, Cto.running, hbusy, hfault, h]

end Sys2Proof.Machine

namespace Sys2Proof.Claims

open Sys2Proof Sys2Proof.Machine

/-- Settles O57: the micro-operations by their fields, the host's two formats by the decoders of the port. -/
theorem decodeOfEncodeIsIdentity : Obligations.DecodeOfEncodeIsIdentity := by
  unfold Obligations.DecodeOfEncodeIsIdentity
  intro sw i hwf hbus
  cases hformat : i.format with
  | u => exact decode_encode_micro hformat hwf
  | h => exact decode_encode_host sw (.inl hformat)
  | hq => exact decode_encode_host sw (.inr hformat)
  | bus => exact absurd hformat hbus

/-- Settles O58: each opcode's clause of the decoder fixes the word's five fields. -/
theorem encodeOfDecodeIsIdentity : Obligations.EncodeOfDecodeIsIdentity := by
  unfold Obligations.EncodeOfDecodeIsIdentity
  intro sw w i h
  obtain ⟨hencode, hwf⟩ := encode_decodeU h
  exact ⟨hencode, hwf, decodeU_format h⟩

/-- Settles O59: reserved bits, mark and opcode give the clauses of 30 R101, in another order. -/
theorem illegalWordsAreExactlyThese : Obligations.IllegalWordsAreExactlyThese := by
  unfold Obligations.IllegalWordsAreExactlyThese
  intro sw w
  rw [decodeU_eq_error_iff]
  unfold OpFieldsIllegal uOp uSrc uSel uRsv uMark
  exact iff_of_eq (by ac_rfl)

/-- Settles O41: the fetched word is illegal, whether the turn is listed or not. -/
theorem illegalWordFaults : Obligations.IllegalWordFaults := by
  unfold Obligations.IllegalWordFaults
  intro s rest r hp hbusy hfault hdecode
  refine ⟨fun ha => ?_, fun ha => ?_⟩
  · rw [step_of_agenda_nil hp ha]
    exact sequencerTurn_of_illegal hbusy hfault hdecode
  · rw [step_of_agenda_cons hp ha]
    exact sequencerTurn_of_illegal (s := { s with agenda := rest }) hbusy hfault hdecode

/-- Settles O60: each worked word is decoded by evaluation. -/
theorem workedWordsDecode : Obligations.WorkedWordsDecode := by
  unfold Obligations.WorkedWordsDecode
  decide

end Sys2Proof.Claims
end

section
/-! Proofs for the family of spec/40_registerfield.md: what the six primitives do at a named address, and that a field
reads back what a masked update put there. -/

namespace Sys2Proof.Machine

/-! ## The words the primitives compute -/

/-- RF_TEST asks whether any masked bit is set (40 R124). -/
theorem testBits_eq_true_iff {t k : Word} : testBits t k = true ↔ t &&& k ≠ 0 := bne_iff_ne

/-- A masked update with a field's mask and shift is the update of that field (40 R127). -/
theorem maskedUpdate_field (f : Field) (t : Word) (v : Nat) :
    maskedUpdate t f.mask f.shift v = fieldUpdate f t (BitVec.ofNat 32 v) := by
  rw [fieldUpdate, maskedUpdate, maskedUpdate, BitVec.ofNat_toNat, BitVec.setWidth_eq]

/-- Masking in place and shifting down gives the field, as 40 R126 reads it. -/
theorem Field.smask_ushiftRight (f : Field) (x : Word) : (x &&& f.smask) >>> f.shift = f.get x := by
  refine BitVec.eq_of_getLsbD_eq fun i hi => ?_
  rw [Field.get_getLsbD, BitVec.getLsbD_ushiftRight, BitVec.getLsbD_and, Field.smask_getLsbD]
  by_cases hbit : f.shift + i < 32
  · simp [hbit, hi, Bool.and_comm]
  · simp [BitVec.getLsbD_of_ge x (f.shift + i) (by omega)]

/-- A word that agrees with an update of a field on the bits of the field shows the value truncated to it. -/
theorem Field.get_of_bits_fieldUpdate {f : Field} {x t v : Word} (hfits : f.shift + f.width ≤ 32)
    (hx : ∀ b, f.shift ≤ b → b < f.shift + f.width → x.getLsbD b = (fieldUpdate f t v).getLsbD b) :
    f.get x = v &&& f.mask := by
  refine BitVec.eq_of_getLsbD_eq fun i hi => ?_
  rw [Field.get_getLsbD, BitVec.getLsbD_and, Field.mask_getLsbD]
  by_cases hwidth : i < f.width
  · rw [hx (f.shift + i) (by omega) (by omega), fieldUpdate_getLsbD, if_pos (by omega), Nat.add_sub_cancel_left,
      Bool.and_comm]
  · simp [hwidth]

/-- Truncating to a field inside the word is reduction modulo `2 ^ width`. -/
theorem Field.toNat_ofNat_and_mask {f : Field} (hwidth : f.width ≤ 32) (v : Nat) :
    (BitVec.ofNat 32 v &&& f.mask).toNat = v % 2 ^ f.width := by
  have hdvd : 2 ^ f.width ∣ 2 ^ 32 := Nat.pow_dvd_pow 2 hwidth
  have hle : 2 ^ f.width ≤ 2 ^ 32 := Nat.pow_le_pow_right (by decide) hwidth
  have hmask : f.mask.toNat = 2 ^ f.width - 1 := (BitVec.toNat_ofNat ..).trans (Nat.mod_eq_of_lt (by omega))
  rw [BitVec.toNat_and, hmask, BitVec.toNat_ofNat, Nat.and_two_pow_sub_one_eq_mod, Nat.mod_mod_of_dvd _ hdvd]

/-! ## Which transactions the primitives make -/

theorem exec_rfRead {s : State} {a : Addr} (hn : named s.params.regs a = true) :
    exec (.rfRead a) s = .next (reply (afterRead s .plain a) (readValue s .plain a)) :=
  atNamed_of_named hn _

theorem exec_rfTest {s : State} {a : Addr} (hn : named s.params.regs a = true) (k : Word) :
    exec (.rfTest a k) s =
      .next (reply (afterRead s .plain a) (if readValue s .plain a &&& k ≠ 0 then 1 else 0)) := by
  simp only [← testBits_eq_true_iff]
  exact atNamed_of_named hn _

theorem exec_rfWrite {s : State} {a : Addr} (hn : named s.params.regs a = true) (v : Word) :
    exec (.rfWrite a v) s = .next (afterWrite s a v) :=
  atNamed_of_named hn _

end Sys2Proof.Machine

namespace Sys2Proof.Claims

open Sys2Proof Sys2Proof.Machine

/-! ## The transactions of the model are those of the statements -/

theorem oneRead_afterRead (s : State) (why : Purpose) (a : Addr) : OneRead s (afterRead s why a) why a s.cto :=
  ⟨rfl, rfl, fun _ => rfl, ⟨rfl, rfl, rfl, rfl⟩, rfl, rfl⟩

theorem oneWrite_afterWrite {s : State} (hmem : Memory.wf s.mem = true) (a : Addr) (v : Word) :
    OneWrite s (afterWrite s a v) a v s.cto := by
  refine ⟨rfl, rfl, fun b hb => ?_, fun b hb => ?_, fun n hout => ?_, ⟨rfl, rfl, rfl, rfl⟩, rfl, rfl⟩
  · exact Memory.storage_bit_write _ _ a v b hmem hb
  · exact Memory.status_bit_write _ _ a v b hmem (Bool.eq_true_of_not_eq_false hb)
  · exact Memory.byte_write_outside _ _ a v n hmem hout

/-! What is done to the CTO after a transaction leaves everything else the transaction says. -/

theorem OneRead.withCto {s t : State} {why : Purpose} {a : Addr} {c : Cto} (h : OneRead s t why a c) (c' : Cto) :
    OneRead s { t with cto := c' } why a c' :=
  ⟨rfl, h.2⟩

theorem OneWrite.withCto {s t : State} {a : Addr} {v : Word} {c : Cto} (h : OneWrite s t a v c) (c' : Cto) :
    OneWrite s { t with cto := c' } a v c' :=
  ⟨rfl, h.2⟩

theorem oneRead_rmwRead (s : State) (a : Addr) : OneRead s (rmwRead s a) .plain a (betweenHalves s a) :=
  (oneRead_afterRead s .plain a).withCto _

/-- A primitive that is a read-modify-write by `f` makes one read, which `tmp` keeps, then one write of `f` of the word
read, after which no copy of it is kept (40 R122, R123, R125, R127). -/
theorem readModifyWrite_oneRead_oneWrite {i : Instr} {s : State} {a : Addr} {f : Word → Word}
    (hi : ∀ s, exec i s = atNamed s a (rmw s a f endPrimitive)) (hn : named s.params.regs a = true)
    (hmem : Memory.wf s.mem = true) (hph : s.cto.ph = false) :
    ∃ t u, exec i s = .next t ∧ OneRead s t .plain a (betweenHalves s a) ∧
      exec i t = .next u ∧ OneWrite t u a (f (readValue s .plain a)) { s.cto with ph := false, tmp := none } := by
  have hread : exec i s = .next (rmwRead s a) := by
    rw [hi, atNamed_of_named hn, rmw_first _ _ _ _ hph]
  have hwrite : exec i (rmwRead s a) =
      .next (endPrimitive (afterWrite (rmwRead s a) a (f (readValue s .plain a)))) := by
    rw [hi, atNamed_of_named (s := rmwRead s a) hn, rmw_second _ _ _ _ rfl, rmwRead_held]
  exact ⟨_, _, hread, oneRead_rmwRead s a, hwrite,
    (oneWrite_afterWrite (s := rmwRead s a) hmem a _).withCto _⟩

/-- After a masked update of a field of storage bits, a read shows the value truncated to the field (40 R126). -/
theorem rfMaskedUpdate_readValue_field {s : State} {a : Addr} {f : Field} (v : Nat)
    (hn : named s.params.regs a = true) (hmem : Memory.wf s.mem = true) (hph : s.cto.ph = false)
    (hfits : f.shift + f.width ≤ 32) (hstorage : ∀ b, f.shift ≤ b → b < f.shift + f.width → StorageBit s a b) :
    ∃ t u, exec (.rfMaskedUpdate a f.mask f.shift v) s = .next t ∧
      exec (.rfMaskedUpdate a f.mask f.shift v) t = .next u ∧
      u.params = s.params ∧ u.returned = s.returned ∧
      f.get (readValue u .plain a) = BitVec.ofNat 32 v &&& f.mask := by
  obtain ⟨t, u, ht, hread, hu, hwrite⟩ := readModifyWrite_oneRead_oneWrite
    (i := .rfMaskedUpdate a f.mask f.shift v) (f := fun x => maskedUpdate x f.mask f.shift v)
    (fun _ => rfl) hn hmem hph
  obtain ⟨-, -, -, ⟨hparamsT, -, -, hreturnedT⟩, -, -⟩ := hread
  obtain ⟨-, -, hstored, -, -, ⟨hparamsU, -, -, hreturnedU⟩, -, -⟩ := hwrite
  have hparams := hparamsU.trans hparamsT
  refine ⟨t, u, ht, hu, hparams, hreturnedU.trans hreturnedT, ?_⟩
  refine Field.get_of_bits_fieldUpdate (t := readValue s .plain a) hfits fun b hlow hhigh => ?_
  have hb := hstorage b hlow hhigh
  unfold StorageBit at hb hstored
  rw [readValue_storage_bit u .plain a b (hparams ▸ hb), hstored b (hparamsT ▸ hb), maskedUpdate_field]

/-- Settles O34: RF_WRITE at a named address is the write transaction. -/
theorem rfWriteReplacesTheWord : Obligations.RfWriteReplacesTheWord := by
  unfold Obligations.RfWriteReplacesTheWord
  intro s a v hn hmem
  exact ⟨_, exec_rfWrite hn v, oneWrite_afterWrite hmem a v⟩

/-- Settles O35: the three primitives are read-modify-writes, each by its own word function. -/
theorem rfReadModifyWrites : Obligations.RfReadModifyWrites := by
  unfold Obligations.RfReadModifyWrites
  intro s a k m sh v hn hmem hph x hx
  simp only [List.mem_cons, List.not_mem_nil, or_false] at hx
  rcases hx with rfl | rfl | rfl
  · exact readModifyWrite_oneRead_oneWrite (f := fun t => setBits t k) (fun _ => rfl) hn hmem hph
  · exact readModifyWrite_oneRead_oneWrite (f := fun t => clearBits t k) (fun _ => rfl) hn hmem hph
  · exact readModifyWrite_oneRead_oneWrite (f := fun t => maskedUpdate t m sh v) (fun _ => rfl) hn hmem hph

/-- Settles O36: the field's bits are storage bits, so they take the update and the read gives them as they are. -/
theorem fieldRoundTrip : Obligations.FieldRoundTrip := by
  unfold Obligations.FieldRoundTrip
  intro s a w sh v hn hmem hph hfits hstorage
  obtain ⟨t, u, ht, hu, hparams, hreturned, hfield⟩ :=
    rfMaskedUpdate_readValue_field (f := ⟨sh, w⟩) v hn hmem hph hfits hstorage
  refine ⟨t, u, _, readValue u .plain a, ht, hu, exec_rfRead (hparams ▸ hn), ?_, ?_⟩
  · rw [reply_returned, afterRead_returned, hreturned]
  · calc ((readValue u .plain a &&& Field.smask ⟨sh, w⟩) >>> sh).toNat
        = (Field.get ⟨sh, w⟩ (readValue u .plain a)).toNat := by rw [← Field.smask_ushiftRight]
      _ = (BitVec.ofNat 32 v &&& Field.mask ⟨sh, w⟩).toNat := by rw [hfield]
      _ = v % 2 ^ w := Field.toNat_ofNat_and_mask (f := ⟨sh, w⟩) (Nat.le_of_add_left_le hfits) v

/-- Settles O33: both primitives are one read and the value handed back. -/
theorem rfReadAndTestReturn : Obligations.RfReadAndTestReturn := by
  unfold Obligations.RfReadAndTestReturn
  intro s a k hn
  exact ⟨_, _, exec_rfRead hn, exec_rfTest hn k, oneRead_afterRead s .plain a, oneRead_afterRead s .plain a⟩

end Sys2Proof.Claims
end

section
/-! Proofs for the family of spec/41_oscillator.md: the enable bit that is written, the ready bit that is read. -/

namespace Sys2Proof.Machine

/-! ## The words written to an enable bit -/

theorem setBits_bitMask_getLsbD {k : Nat} (hk : k < 32) (t : Word) (b : Nat) :
    (setBits t (bitMask k)).getLsbD b = if b = k then true else t.getLsbD b := by
  rw [setBits, BitVec.getLsbD_or, bitMask_getLsbD]
  by_cases hb : b = k <;> simp [hb, hk]

theorem clearBits_bitMask_getLsbD {k : Nat} (hk : k < 32) (t : Word) (b : Nat) :
    (clearBits t (bitMask k)).getLsbD b = if b = k then false else t.getLsbD b := by
  rw [clearBits, BitVec.getLsbD_and, BitVec.getLsbD_not, bitMask_getLsbD]
  by_cases hb : b = k
  · simp [hb, hk]
  · simpa [hb, hk] using BitVec.lt_of_getLsbD

/-! ## The micro-operations of the family -/

/-- OSC_ENABLE is a read-modify-write that sets the enable bit (41 R131). -/
theorem exec_oscEnable (s : State) (src : ClockSource) (m : Mark) :
    exec (.oscEnable src m) s = .next (rmw s (s.params.regs.en.get src).addr
      (fun t => setBits t (bitMask (s.params.regs.en.get src).bit)) (complete m)) := rfl

/-- OSC_DISABLE is a read-modify-write that clears the enable bit (41 R132). -/
theorem exec_oscDisable (s : State) (src : ClockSource) (m : Mark) :
    exec (.oscDisable src m) s = .next (rmw s (s.params.regs.en.get src).addr
      (fun t => clearBits t (bitMask (s.params.regs.en.get src).bit)) (complete m)) := rfl

/-- A poll of a ready bit that reads 0 is a failed one (41 R133). -/
theorem exec_oscWaitReady_of_not_ready {s : State} {src : ClockSource} (hp : RegMap.wf s.params.regs = true)
    (h : (readValue s (.pollReady src) (s.params.regs.rdy.get src).addr).getLsbD (s.params.regs.rdy.get src).bit = false)
    (m : Mark) :
    exec (.oscWaitReady src m) s =
      .next { afterRead s (.pollReady src) (s.params.regs.rdy.get src).addr with
        cto := s.cto.failedPoll (.oscillatorTimeout src) } :=
  congrArg Host.Outcome.next
    (poll_failed _ _ _ _ _ _ ((testBits_bitMask _ _ (ready_bit_lt hp src)).trans h))

/-- OSC_IS_READY is one read, whose ready bit goes to `rdy` (41 R134). -/
theorem exec_oscIsReady {s : State} (hp : RegMap.wf s.params.regs = true) (src : ClockSource) (m : Mark) :
    exec (.oscIsReady src m) s =
      .next { afterRead s .plain (s.params.regs.rdy.get src).addr with
        cto := Cto.complete { s.cto with
          rdy := (readValue s .plain (s.params.regs.rdy.get src).addr).getLsbD (s.params.regs.rdy.get src).bit } m } := by
  rw [← testBits_bitMask _ _ (ready_bit_lt hp src)]
  rfl

end Sys2Proof.Machine

namespace Sys2Proof.Claims

open Sys2Proof Sys2Proof.Machine

/-! ## A micro-operation that is a read-modify-write -/

theorem SameBytes.word_eq {s t : State} (h : SameBytes s t) (a : Addr) : t.mem.word a = s.mem.word a := by
  simp [Memory.word, h _]

/-- A micro-operation whose two turns are the halves of a read-modify-write of `a` by `f`, ending in `Complete(mark)`, makes
one read and one write of `f` of the word read (10 R23, 47 R181). -/
theorem readThenWrite_of_rmw {i : Instr} {s : State} {a : Addr} {f : Word → Word} {m : Mark}
    (hfirst : exec i s = .next (rmw s a f (complete m)))
    (hsecond : exec i (rmwRead s a) = .next (rmw (rmwRead s a) a f (complete m)))
    (hmem : Memory.wf s.mem = true) (hph : s.cto.ph = false) : ∃ u, ReadThenWrite i s u a f m := by
  rw [rmw_first _ _ _ _ hph] at hfirst
  rw [rmw_second _ _ _ _ rfl, rmwRead_held] at hsecond
  have hwrite := oneWrite_afterWrite (s := rmwRead s a) hmem a (f (readValue s .plain a))
  refine ⟨_, rmwRead s a, hfirst, oneRead_rmwRead s a, hsecond, ?_⟩
  rw [← complete_eq_completed]
  exact hwrite.withCto _

section
variable {i : Instr} {s u : State} {a : Addr} {f : Word → Word} {m : Mark} (h : ReadThenWrite i s u a f m) {b : Nat}
include h

/-- A storage bit takes what `f` makes of the word read. -/
theorem ReadThenWrite.storage_bit (hb : StorageBit s a b) :
    (u.mem.word a).getLsbD b = (f (readValue s .plain a)).getLsbD b := by
  obtain ⟨t, -, ⟨-, -, -, ⟨hparams, -⟩, -⟩, -, ⟨-, -, hstored, -⟩⟩ := h
  exact hstored b (by rwa [StorageBit, hparams])

/-- A bit that `f` keeps stays as it was: a storage bit reads as it is stored, a status bit is not written (20 R67). -/
theorem ReadThenWrite.kept_bit (hf : ∀ t, (f t).getLsbD b = t.getLsbD b) :
    (u.mem.word a).getLsbD b = (s.mem.word a).getLsbD b := by
  by_cases hb : StorageBit s a b
  · rw [h.storage_bit hb, hf, readValue_storage_bit s .plain a b hb]
  · obtain ⟨t, -, ⟨-, -, hbytes, ⟨hparams, -⟩, -⟩, -, ⟨-, -, -, hstatus, -⟩⟩ := h
    rw [hstatus b (by rwa [StorageBit, hparams]), hbytes.word_eq]

/-- A read-modify-write that sets one storage bit to `on` does that, and no other bit of the word changes. -/
theorem ReadThenWrite.one_bit {k : Nat} {on : Bool} (hk : StorageBit s a k)
    (hf : ∀ t b, (f t).getLsbD b = if b = k then on else t.getLsbD b) :
    (u.mem.word a).getLsbD k = on ∧ ∀ b, b ≠ k → (u.mem.word a).getLsbD b = (s.mem.word a).getLsbD b :=
  ⟨by rw [h.storage_bit hk, hf, if_pos rfl], fun b hb => h.kept_bit fun t => by rw [hf, if_neg hb]⟩

end

/-- Settles O1: OSC_ENABLE sets one bit of the word it reads, and an enable bit is a storage bit. -/
theorem oscEnableSetsTheEnableBit : Obligations.OscEnableSetsTheEnableBit := by
  unfold Obligations.OscEnableSetsTheEnableBit
  intro s src m ⟨hmem, hp⟩ hph
  have hregs := paramsWf_regs hp
  obtain ⟨u, hu⟩ := readThenWrite_of_rmw (exec_oscEnable s src m) (exec_oscEnable (rmwRead s _) src m) hmem hph
  exact ⟨u, hu, hu.one_bit (enable_is_storage hregs src) (setBits_bitMask_getLsbD (enable_bit_lt hregs src))⟩

/-- Settles O2: OSC_DISABLE clears one bit of the word it reads, and an enable bit is a storage bit. -/
theorem oscDisableClearsTheEnableBit : Obligations.OscDisableClearsTheEnableBit := by
  unfold Obligations.OscDisableClearsTheEnableBit
  intro s src m ⟨hmem, hp⟩ hph
  have hregs := paramsWf_regs hp
  obtain ⟨u, hu⟩ := readThenWrite_of_rmw (exec_oscDisable s src m) (exec_oscDisable (rmwRead s _) src m) hmem hph
  exact ⟨u, hu, hu.one_bit (enable_is_storage hregs src) (clearBits_bitMask_getLsbD (enable_bit_lt hregs src))⟩

/-- A failed poll of an oscillator counts, and raises OscillatorTimeout when the count reaches a nonzero limit (41 R133). -/
theorem failedPoll_oscillatorTimeout (c : Cto) (src : ClockSource) :
    c.failedPoll (.oscillatorTimeout src) =
      if c.limit ≠ 0 ∧ c.pollcnt + 1 = c.limit then faultedWith { c with pollcnt := c.pollcnt + 1 } 1 src.code
      else { c with pollcnt := c.pollcnt + 1 } := by
  split
  · next hlimit => exact c.failedPoll_timeout _ hlimit
  · next hlimit => exact c.failedPoll_again _ hlimit

/-- Settles O3: by the ready bit the poll reads. -/
theorem oscWaitReadyPolls : Obligations.OscWaitReadyPolls := by
  unfold Obligations.OscWaitReadyPolls
  intro s src m hp
  have hregs := paramsWf_regs hp
  have hread := oneRead_afterRead s (.pollReady src) (s.params.regs.rdy.get src).addr
  split
  · next hready =>
    rw [← complete_eq_completed]
    exact ⟨_, exec_oscWaitReady_of_ready hregs hready m, hread.withCto _⟩
  · next hready =>
    rw [← failedPoll_oscillatorTimeout]
    exact ⟨_, exec_oscWaitReady_of_not_ready hregs (eq_false_of_ne_true hready) m, hread.withCto _⟩

/-- Settles O4: OSC_IS_READY is one read and a change of the CTO alone. -/
theorem oscIsReadyWritesRdy : Obligations.OscIsReadyWritesRdy := by
  unfold Obligations.OscIsReadyWritesRdy
  intro s src m hp
  refine ⟨_, exec_oscIsReady (paramsWf_regs hp) src m, ?_⟩
  rw [← complete_eq_completed]
  exact (oneRead_afterRead s .plain (s.params.regs.rdy.get src).addr).withCto _

end Sys2Proof.Claims
end

section
/-! Proofs for the family of spec/42_pll.md: the test PLL_CONFIGURE makes before it writes, and the six fields of the word it
writes. -/

namespace Sys2Proof.Machine

/-! ## The two turns of PLL_CONFIGURE (42 R143) -/

/-- Testing a read word for a source's enable bit gives the bit as it is stored: it is no status bit (00 R9). -/
theorem testBits_enable {s : State} (hp : RegMap.wf s.params.regs = true) (why : Purpose) (src : ClockSource) :
    testBits (readValue s why (s.params.regs.en.get src).addr) (s.params.regs.en.get src).smask =
      storedBit s.mem (s.params.regs.en.get src) :=
  (testBits_bitMask _ _ (enable_bit_lt hp src)).trans (readValue_storage_bit _ _ _ _ (enable_is_storage hp src))

theorem pllTest_of_clear {s : State} (hp : RegMap.wf s.params.regs = true)
    (hclear : storedBit s.mem s.params.regs.en.pll = false) : pllTest s = rmwRead s s.params.regs.en.pll.addr :=
  if_neg (ne_true_of_eq_false ((testBits_enable hp .plain .pll).trans hclear))

theorem pllTest_of_set {s : State} (hp : RegMap.wf s.params.regs = true)
    (hset : storedBit s.mem s.params.regs.en.pll = true) :
    pllTest s = raise .pllRunning (afterRead s .plain s.params.regs.en.pll.addr) :=
  if_pos ((testBits_enable hp .plain .pll).trans hset)

theorem exec_pllConfigure_first {s : State} {p : ClockScaleProfile} (hprof : s.cto.prof = some p)
    (hph : s.cto.ph = false) (m : Mark) : exec (.pllConfigure m) s = .next (pllTest s) :=
  congrArg Host.Outcome.next ((withProfile_some s _ p hprof).trans (if_neg (ne_true_of_eq_false hph)))

theorem exec_pllConfigure_second {s : State} {p : ClockScaleProfile} (hprof : s.cto.prof = some p)
    (hph : s.cto.ph = true) (m : Mark) :
    exec (.pllConfigure m) s = .next (complete m (afterWrite s s.params.regs.pllcfgAddr (pllWord s.params p))) :=
  congrArg Host.Outcome.next ((withProfile_some s _ p hprof).trans (if_pos hph))

/-! ## Words made of fields that do not overlap -/

/-- The word with each of the values in its field and 0 elsewhere. -/
def placeAll (l : List (Field × Word)) : Word := l.foldr (fun x w => x.1.place x.2 ||| w) 0

/-- Two fields share no bit. -/
def FieldsApart (x y : Field × Word) : Prop :=
  ∀ i, ¬ (x.1.smask.getLsbD i = true ∧ y.1.smask.getLsbD i = true)

theorem FieldsApart.symm : Std.Symm FieldsApart := ⟨fun _ _ h i hi => h i hi.symm⟩

theorem placeAll_getLsbD {l : List (Field × Word)} {i : Nat} :
    (placeAll l).getLsbD i = true ↔ ∃ x ∈ l, (x.1.place x.2).getLsbD i = true := by
  induction l with
  | nil => simp [placeAll]
  | cons x xs ih =>
    have hcons : placeAll (x :: xs) = x.1.place x.2 ||| placeAll xs := rfl
    rw [hcons, BitVec.getLsbD_or, Bool.or_eq_true, ih, List.exists_mem_cons_iff]

/-- A value placed in a field sets bits of the field only. -/
theorem Field.smask_of_place {f : Field} {v : Word} {i : Nat} (h : (f.place v).getLsbD i = true) :
    f.smask.getLsbD i = true := by
  rw [Field.place_getLsbD, ← Field.smask_getLsbD, Bool.and_eq_true] at h
  exact h.1

/-- A placed value reads back truncated to its field. -/
theorem Field.get_place {f : Field} (hfits : f.shift + f.width ≤ 32) (v : Word) : f.get (f.place v) = v &&& f.mask := by
  refine BitVec.eq_of_getLsbD_eq fun i hi => ?_
  rw [Field.get_getLsbD, Field.place_getLsbD, BitVec.getLsbD_and, Field.mask_getLsbD, Nat.add_sub_cancel_left]
  by_cases hwidth : i < f.width
  · simp [hi, hwidth, show f.shift + i < 32 by omega]
  · simp [hwidth]

/-- A field reads the same of two words that agree on its bits. -/
theorem Field.get_congr {f : Field} {v w : Word} (h : ∀ i, f.smask.getLsbD i = true → v.getLsbD i = w.getLsbD i) :
    f.get v = f.get w := by
  rw [← Field.smask_ushiftRight, ← Field.smask_ushiftRight]
  congr 1
  refine BitVec.eq_of_getLsbD_eq fun i _ => ?_
  rw [BitVec.getLsbD_and, BitVec.getLsbD_and]
  cases hi : f.smask.getLsbD i with
  | true => rw [h i hi]
  | false => rw [Bool.and_false, Bool.and_false]

/-- In a word of fields that do not overlap, each field inside the word shows its value truncated to it. -/
theorem get_placeAll {l : List (Field × Word)} (hapart : l.Pairwise FieldsApart) {f : Field} {v : Word}
    (hmem : (f, v) ∈ l) (hfits : f.shift + f.width ≤ 32) : f.get (placeAll l) = v &&& f.mask := by
  rw [← Field.get_place hfits v]
  refine Field.get_congr fun i hi => Bool.eq_iff_iff.2 (placeAll_getLsbD.trans ⟨?_, fun hv => ⟨_, hmem, hv⟩⟩)
  rintro ⟨x, hx, hbit⟩
  by_cases hxf : x = (f, v)
  · rwa [hxf] at hbit
  · have := FieldsApart.symm
    exact absurd ⟨Field.smask_of_place hbit, hi⟩ (hapart.forall hx hmem hxf i)

/-! ## The PLL configuration word (42 R142) -/

/-- The six fields of the PLL configuration word, each with the value put there before truncation. -/
def pllFields (q : Params) (p : ClockScaleProfile) : List (Field × Word) :=
  [(q.regs.pllM, p.pllm.setWidth 32), (q.regs.pllN, p.plln.setWidth 32), (q.regs.pllP, pCode q.codes p),
   (q.regs.pllQ, p.pllq.setWidth 32), (q.regs.pllR, clampedR p), (q.regs.pllSrc, q.regs.pllsrcHse)]

theorem forall_mem_pllFields {q : Params} {p : ClockScaleProfile} {P : Field × Word → Prop} :
    (∀ x ∈ pllFields q p, P x) ↔
      P (q.regs.pllM, p.pllm.setWidth 32) ∧ P (q.regs.pllN, p.plln.setWidth 32) ∧ P (q.regs.pllP, pCode q.codes p) ∧
      P (q.regs.pllQ, p.pllq.setWidth 32) ∧ P (q.regs.pllR, clampedR p) ∧ P (q.regs.pllSrc, q.regs.pllsrcHse) := by
  simp [pllFields]

theorem pllWord_eq_placeAll (q : Params) (p : ClockScaleProfile) : pllWord q p = placeAll (pllFields q p) := by
  simp [pllWord, placeAll, pllFields, BitVec.or_assoc]

theorem pairwise_apart_of_allApart {l : List (Addr × Word)} (h : allApart l = true) :
    l.Pairwise fun x y => apart x y = true := by
  induction l with
  | nil => exact .nil
  | cons x xs ih =>
    rw [allApart, Bool.and_eq_true, List.all_eq_true] at h
    exact .cons h.1 (ih h.2)

/-- The six fields stand side by side among the storage fields of a map. -/
theorem pllFields_sublist (q : Params) (p : ClockScaleProfile) :
    ((pllFields q p).map fun x => (q.regs.pllcfgAddr, x.1.smask)).Sublist (storageFields q.regs ++ statusBits q.regs) :=
  (List.IsPrefix.sublist ⟨_, rfl⟩).trans ((List.sublist_append_right (q.regs.en.toList.map _) _).trans
    (List.sublist_append_left _ _))

/-- In an admitted map the six fields do not overlap (00 R9). -/
theorem pllFields_apart {q : Params} (h : RegMap.wf q.regs = true) (p : ClockScaleProfile) :
    (pllFields q p).Pairwise FieldsApart := by
  obtain ⟨-, -, -, -, hapart⟩ := RegMap.wf_parts h
  have hpairs := (pairwise_apart_of_allApart hapart).sublist (pllFields_sublist q p)
  exact (List.pairwise_map.1 hpairs).imp fun hxy => apart_bit hxy

/-- In an admitted map the six fields lie inside the word (00 R9). -/
theorem pllFields_fit {q : Params} (h : RegMap.wf q.regs = true) (p : ClockScaleProfile) :
    ∀ x ∈ pllFields q p, x.1.shift + x.1.width ≤ 32 := by
  obtain ⟨-, -, -, hfits, -⟩ := RegMap.wf_parts h
  simp only [List.all_cons, Bool.and_eq_true, Field.fits, decide_eq_true_eq] at hfits
  obtain ⟨hM, hN, hP, hQ, hR, hSrc, -⟩ := hfits
  exact forall_mem_pllFields.2 ⟨hM, hN, hP, hQ, hR, hSrc⟩

/-- Each field of the PLL configuration word shows its value truncated to it. -/
theorem get_pllWord {q : Params} (h : RegMap.wf q.regs = true) (p : ClockScaleProfile) :
    ∀ x ∈ pllFields q p, x.1.get (pllWord q p) = x.2 &&& x.1.mask := by
  intro x hx
  rw [pllWord_eq_placeAll]
  exact get_placeAll (pllFields_apart h p) hx (pllFields_fit h p x hx)

/-- Every bit of the PLL configuration word outside the six fields is 0. -/
theorem pllWord_getLsbD_outside {q : Params} {p : ClockScaleProfile} {b : Nat}
    (h : ∀ x ∈ pllFields q p, x.1.smask.getLsbD b = false) : (pllWord q p).getLsbD b = false := by
  refine eq_false_of_ne_true fun hset => ?_
  rw [pllWord_eq_placeAll, placeAll_getLsbD] at hset
  obtain ⟨x, hx, hbit⟩ := hset
  exact absurd (Field.smask_of_place hbit) (ne_true_of_eq_false (h x hx))

theorem clampedR_eq_ofNat_max (p : ClockScaleProfile) : clampedR p = BitVec.ofNat 32 (max p.pllr.toNat 2) := by
  unfold clampedR Config.pllrMin
  split
  · next hlow => rw [max_eq_right (by omega)]; rfl
  · next hhigh => rw [max_eq_left (by omega), BitVec.ofNat_toNat]

theorem pCode_of_encP {k : Codes} {p : ClockScaleProfile} {c : Word} (h : encP k p.pllp = some c) : pCode k p = c := by
  rw [pCode, h, Option.getD_some]

end Sys2Proof.Machine

namespace Sys2Proof.Claims

open Sys2Proof Sys2Proof.Machine

/-- Settles O14: the enable bit is a storage bit, so the test passes and the first turn is the read; the second writes. -/
theorem pllConfigureWritesTheWordOnce : Obligations.PllConfigureWritesTheWordOnce := by
  unfold Obligations.PllConfigureWritesTheWordOnce
  intro s m p ⟨hmem, hp⟩ hph hprof hclear
  have hfirst := exec_pllConfigure_first hprof hph m
  rw [pllTest_of_clear (paramsWf_regs hp) hclear] at hfirst
  have hsecond := exec_pllConfigure_second (s := rmwRead s s.params.regs.en.pll.addr) hprof rfl m
  have hwrite := oneWrite_afterWrite (s := rmwRead s s.params.regs.en.pll.addr) hmem s.params.regs.pllcfgAddr
    (pllWord s.params p)
  refine ⟨_, _, hfirst, oneRead_rmwRead s _, hsecond, ?_⟩
  rw [← complete_eq_completed]
  exact hwrite.withCto _

/-- Settles O15: the test fails, and what follows the read is the raise alone. -/
theorem pllConfigureFaultsWhenEnabled : Obligations.PllConfigureFaultsWhenEnabled := by
  unfold Obligations.PllConfigureFaultsWhenEnabled
  intro s m p hp hph hprof hset
  have hexec := exec_pllConfigure_first hprof hph m
  rw [pllTest_of_set (paramsWf_regs hp) hset] at hexec
  exact ⟨_, hexec, (oneRead_afterRead s .plain _).withCto _⟩

/-- Settles O16: the six fields do not overlap and lie inside the word, so each reads back what was placed in it. -/
theorem pllWordHoldsTheSixFields : Obligations.PllWordHoldsTheSixFields := by
  unfold Obligations.PllWordHoldsTheSixFields
  intro q p c hp hc
  obtain ⟨hM, hN, hP, hQ, hR, hSrc⟩ := forall_mem_pllFields.1 (get_pllWord (paramsWf_regs hp) p)
  rw [clampedR_eq_ofNat_max] at hR
  rw [pCode_of_encP hc] at hP
  refine ⟨hM, hN, hP, hQ, hR, hSrc, fun b hout => pllWord_getLsbD_outside (forall_mem_pllFields.2 ?_)⟩
  simpa only [BitVec.getLsbD_or, Bool.or_eq_false_iff, and_assoc] using hout

end Sys2Proof.Claims
end

section
/-! Proofs for the family of spec/43_voltage.md: a micro-operation that writes one field of a word, and the voltage field. -/

namespace Sys2Proof.Machine

/-- In an admitted map every field the spec names lies inside the word (00 R9). -/
theorem field_fits {r : RegMap} (h : RegMap.wf r = true) {f : Field}
    (hf : f ∈ [r.pllM, r.pllN, r.pllP, r.pllQ, r.pllR, r.pllSrc, r.sw, r.sws, r.hpre, r.ppre1, r.ppre2, r.vos, r.latency]) :
    f.shift + f.width ≤ 32 := by
  obtain ⟨-, -, -, hfits, -⟩ := RegMap.wf_parts h
  exact of_decide_eq_true (List.all_eq_true.1 hfits f hf)

theorem vos_mem (r : RegMap) : (r.pwrAddr, r.vos.smask) ∈ storageFields r := by simp [storageFields]

/-- With a profile latched, VOS_SET_SCALE is a read-modify-write of the voltage field with the profile's code (43 R150). -/
theorem exec_vosSetScale {s : State} {p : ClockScaleProfile} (hprof : s.cto.prof = some p) (m : Mark) :
    exec (.vosSetScale m) s = .next (rmw s s.params.regs.pwrAddr
      (fun t => fieldUpdate s.params.regs.vos t (vosCode s.params.regs p)) (complete m)) :=
  congrArg Host.Outcome.next (withProfile_some s _ p hprof)

end Sys2Proof.Machine

namespace Sys2Proof.Claims

open Sys2Proof Sys2Proof.Machine

/-! ## A micro-operation that writes one field -/

theorem fieldUpdate_eq_updated (f : Field) (t v : Word) : fieldUpdate f t v = updated f v t := by
  rw [fieldUpdate, maskedUpdate, updated, BitVec.ofNat_toNat, BitVec.setWidth_eq]

/-- An update of a field keeps every bit outside the field (40 R125). -/
theorem updated_getLsbD_outside {f : Field} {b : Nat} (hout : b < f.shift ∨ f.shift + f.width ≤ b) (v t : Word) :
    (updated f v t).getLsbD b = t.getLsbD b := by
  rw [← fieldUpdate_eq_updated, fieldUpdate_getLsbD, if_neg (by omega)]

/-- A read-modify-write that updates a field of storage bits writes that field and no other bit of the word. -/
theorem ReadThenWrite.onlyFieldWritten {i : Instr} {s u : State} {a : Addr} {f : Field} {v : Word} {m : Mark}
    (h : ReadThenWrite i s u a (updated f v) m) (hfits : f.shift + f.width ≤ 32)
    (hstorage : ∀ b, f.smask.getLsbD b = true → StorageBit s a b) : OnlyFieldWritten s u a f v := by
  refine ⟨Field.get_of_bits_fieldUpdate (t := readValue s .plain a) hfits fun b hlow hhigh => ?_,
    fun b hout => h.kept_bit (updated_getLsbD_outside hout v)⟩
  have hbit : f.smask.getLsbD b = true := by simpa using ⟨⟨by omega, hlow⟩, hhigh⟩
  rw [h.storage_bit (hstorage b hbit), fieldUpdate_eq_updated]

/-- A micro-operation whose two turns are the halves of a read-modify-write of a written field the register map names makes
those two transactions and writes that field alone. -/
theorem readThenWrite_onlyFieldWritten {i : Instr} {s : State} {a : Addr} {f : Field} {v : Word} {m : Mark}
    (hfirst : exec i s = .next (rmw s a (fun t => fieldUpdate f t v) (complete m)))
    (hsecond : exec i (rmwRead s a) = .next (rmw (rmwRead s a) a (fun t => fieldUpdate f t v) (complete m)))
    (hs : Sound s) (hph : s.cto.ph = false) (hfield : (a, f.smask) ∈ storageFields s.params.regs)
    (hfits : f.shift + f.width ≤ 32) :
    ∃ u, ReadThenWrite i s u a (updated f v) m ∧ OnlyFieldWritten s u a f v := by
  obtain ⟨hmem, hp⟩ := hs
  simp only [fieldUpdate_eq_updated] at hfirst hsecond
  obtain ⟨u, hu⟩ := readThenWrite_of_rmw hfirst hsecond hmem hph
  exact ⟨u, hu, hu.onlyFieldWritten hfits fun _ hb => storageField_bit (paramsWf_regs hp) hfield hb⟩

/-- Settles O11: the profile latch stands over both halves, and the voltage field is a storage field of the map. -/
theorem vosSetScaleWritesTheRange : Obligations.VosSetScaleWritesTheRange := by
  unfold Obligations.VosSetScaleWritesTheRange
  intro s m p hs hph hprof
  have hfirst := exec_vosSetScale hprof m
  have hsecond := exec_vosSetScale (s := rmwRead s s.params.regs.pwrAddr) hprof m
  exact readThenWrite_onlyFieldWritten hfirst hsecond hs hph (vos_mem _) (field_fits (paramsWf_regs hs.2) (by simp))

end Sys2Proof.Claims
end

section
/-! Proofs for the family of spec/44_flash.md: the word FLASH_SET_WS writes, bit by bit, and the one write of it. -/

namespace Sys2Proof.Machine

/-! ## The four places of the flash word (00 R9) -/

theorem latency_mem (r : RegMap) : (r.flashAddr, r.latency.smask) ∈ storageFields r := by simp [storageFields]
theorem icen_mem (r : RegMap) : (r.flashAddr, bitMask r.icen) ∈ storageFields r := by simp [storageFields]
theorem dcen_mem (r : RegMap) : (r.flashAddr, bitMask r.dcen) ∈ storageFields r := by simp [storageFields]

/-- The four places of the flash word are the last four of a map's storage fields. -/
theorem flash_sublist (r : RegMap) :
    ([r.latency.smask, bitMask r.icen, bitMask r.dcen, bitMask r.prften].map (r.flashAddr, ·)).Sublist
      (storageFields r ++ statusBits r) :=
  (List.drop_sublist 18 (storageFields r)).trans (List.sublist_append_left _ _)

/-- A word shares no bit with a one-bit mask exactly when it has 0 there. -/
theorem apart_bitMask_iff {k : Nat} (hk : k < 32) {v : Word} :
    (∀ i, ¬ (v.getLsbD i = true ∧ (bitMask k).getLsbD i = true)) ↔ v.getLsbD k = false := by
  refine ⟨fun h => eq_false_of_ne_true fun hv => h k ⟨hv, by simp [hk]⟩, fun hv i ⟨hi, hki⟩ => ?_⟩
  have hik : i = k := by simpa [hk] using hki
  rw [hik, hv] at hi
  exact Bool.noConfusion hi

theorem Field.outside_of_smask {f : Field} {b : Nat} (hb : b < 32) (h : f.smask.getLsbD b = false) :
    b < f.shift ∨ f.shift + f.width ≤ b := by
  rw [Field.smask_getLsbD, decide_eq_true hb, Bool.true_and, Bool.and_eq_false_iff, decide_eq_false_iff_not,
    decide_eq_false_iff_not] at h
  omega

section
variable {r : RegMap} (h : RegMap.wf r = true)
include h

theorem flash_bits_lt : r.icen < 32 ∧ r.dcen < 32 ∧ r.prften < 32 := by
  obtain ⟨-, -, hbits, -⟩ := RegMap.wf_parts h
  simpa using hbits

/-- In an admitted map no two of the four places share a bit: the latency field holds none of the three enables, and these
are three bits. -/
theorem flash_places_apart :
    (r.latency.smask.getLsbD r.icen = false ∧ r.latency.smask.getLsbD r.dcen = false ∧
      r.latency.smask.getLsbD r.prften = false) ∧
    r.dcen ≠ r.icen ∧ r.prften ≠ r.icen ∧ r.prften ≠ r.dcen := by
  obtain ⟨hic, hdc, hpf⟩ := flash_bits_lt h
  obtain ⟨-, -, -, -, hapart⟩ := RegMap.wf_parts h
  have hplaces := List.pairwise_map.1 ((pairwise_apart_of_allApart hapart).sublist (flash_sublist r))
  have hbits := hplaces.imp fun hvw => apart_bit hvw
  simp only [List.pairwise_cons, List.forall_mem_cons, apart_bitMask_iff hic, apart_bitMask_iff hdc,
    apart_bitMask_iff hpf] at hbits
  obtain ⟨⟨hlic, hldc, hlpf, -⟩, ⟨hid, hip, -⟩, ⟨hdp, -⟩, -⟩ := hbits
  rw [bitMask_getLsbD] at hid hip hdp
  exact ⟨⟨hlic, hldc, hlpf⟩, by simpa [hic] using hid, by simpa [hic] using hip, by simpa [hdc] using hdp⟩

end

/-! ## The word FLASH_SET_WS writes (44 R155) -/

theorem bitAt_getLsbD {k : Nat} (hk : k < 32) (on : Bool) (b : Nat) :
    (bitAt on k).getLsbD b = (on && decide (b = k)) := by
  cases on <;> simp [bitAt, hk]

/-- A one-bit operand in place is the operand as a word, shifted. -/
theorem bitAt_eq_shiftLeft (on : Bool) (k : Nat) : bitAt on k = (BitVec.ofBool on).setWidth 32 <<< k := by
  cases on
  · exact (BitVec.zero_shiftLeft k).symm
  · rfl

/-- A field's update keeps the bits outside the field and puts the value in place. -/
theorem fieldUpdate_eq_place (f : Field) (t v : Word) : fieldUpdate f t v = (t &&& ~~~f.smask) ||| f.place v := by
  rw [fieldUpdate, maskedUpdate, BitVec.ofNat_toNat, BitVec.setWidth_eq]
  rfl

/-- The word written has the two operands at the cache enables and is an update of the latency field elsewhere. -/
theorem flashWord_getLsbD {r : RegMap} (h : RegMap.wf r = true) (ws : BitVec 16) (ic dc : Bool) (t : Word) (b : Nat) :
    (flashWord r ws ic dc t).getLsbD b =
      if b = r.icen then ic else if b = r.dcen then dc
      else (fieldUpdate r.latency t (ws.setWidth 32)).getLsbD b := by
  obtain ⟨hic, hdc, -⟩ := flash_bits_lt h
  obtain ⟨⟨hlic, hldc, -⟩, hne, -⟩ := flash_places_apart h
  have hplace {k : Nat} (hk : r.latency.smask.getLsbD k = false) :
      (r.latency.place (ws.setWidth 32)).getLsbD k = false :=
    eq_false_of_ne_true fun hp => ne_true_of_eq_false hk (Field.smask_of_place hp)
  rw [fieldUpdate_eq_place, flashWord, flashMask]
  simp only [BitVec.getLsbD_or, BitVec.getLsbD_and, BitVec.getLsbD_not, bitMask_getLsbD, bitAt_getLsbD hic,
    bitAt_getLsbD hdc]
  by_cases hbi : b = r.icen
  · rw [hbi, hplace hlic]
    simp [hic, hne.symm]
  · by_cases hbd : b = r.dcen
    · rw [hbd, hplace hldc]
      simp [hdc, hne]
    · simp [hbi, hbd]

/-- With a profile latched, FLASH_SET_WS is a read-modify-write of the flash word (44 R155). -/
theorem exec_flashSetWs {s : State} {p : ClockScaleProfile} (hprof : s.cto.prof = some p) (ic dc : Bool) (m : Mark) :
    exec (.flashSetWs ic dc m) s = .next (rmw s s.params.regs.flashAddr
      (flashWord s.params.regs p.flashWaitStates ic dc) (complete m)) :=
  congrArg Host.Outcome.next (withProfile_some s _ p hprof)

end Sys2Proof.Machine

namespace Sys2Proof.Claims

open Sys2Proof Sys2Proof.Machine

/-- The word written, with its masks and operands as 44 R155 writes them. -/
theorem flashWord_eq (r : RegMap) (ws : BitVec 16) (ic dc : Bool) :
    flashWord r ws ic dc = fun t =>
      (t &&& ~~~(r.latency.smask ||| (1#32 <<< r.icen) ||| (1#32 <<< r.dcen)))
        ||| ((ws.setWidth 32 &&& r.latency.mask) <<< r.latency.shift)
        ||| ((BitVec.ofBool ic).setWidth 32 <<< r.icen)
        ||| ((BitVec.ofBool dc).setWidth 32 <<< r.dcen) := by
  funext t
  rw [flashWord, bitAt_eq_shiftLeft, bitAt_eq_shiftLeft]
  rfl

section
variable {i : Instr} {s u : State} {ws : BitVec 16} {ic dc : Bool} {m : Mark} (hregs : RegMap.wf s.params.regs = true)
  (h : ReadThenWrite i s u s.params.regs.flashAddr (flashWord s.params.regs ws ic dc) m)
include hregs h

/-- The latency field holds neither cache enable, so it takes the wait states, truncated to it. -/
theorem ReadThenWrite.flash_latency :
    s.params.regs.latency.get (u.mem.word s.params.regs.flashAddr) = ws.setWidth 32 &&& s.params.regs.latency.mask := by
  obtain ⟨⟨hlic, hldc, -⟩, -⟩ := flash_places_apart hregs
  have hfits := field_fits hregs (f := s.params.regs.latency) (by simp)
  refine Field.get_of_bits_fieldUpdate (t := readValue s .plain s.params.regs.flashAddr) hfits fun b hlow hhigh => ?_
  have hb : s.params.regs.latency.smask.getLsbD b = true := by simpa using ⟨⟨by omega, hlow⟩, hhigh⟩
  have hbi : b ≠ s.params.regs.icen := fun e => by simp [← e, hb] at hlic
  have hbd : b ≠ s.params.regs.dcen := fun e => by simp [← e, hb] at hldc
  rw [h.storage_bit (storageField_bit hregs (latency_mem _) hb), flashWord_getLsbD hregs, if_neg hbi, if_neg hbd]

/-- The two cache enables are two storage bits, so each takes its operand. -/
theorem ReadThenWrite.flash_enables :
    (u.mem.word s.params.regs.flashAddr).getLsbD s.params.regs.icen = ic ∧
    (u.mem.word s.params.regs.flashAddr).getLsbD s.params.regs.dcen = dc := by
  obtain ⟨hic, hdc, -⟩ := flash_bits_lt hregs
  obtain ⟨-, hne, -⟩ := flash_places_apart hregs
  have hicen := h.storage_bit (b := s.params.regs.icen) (storageField_bit hregs (icen_mem _) (by simp [hic]))
  have hdcen := h.storage_bit (b := s.params.regs.dcen) (storageField_bit hregs (dcen_mem _) (by simp [hdc]))
  rw [flashWord_getLsbD hregs, if_pos rfl] at hicen
  rw [flashWord_getLsbD hregs, if_neg hne, if_pos rfl] at hdcen
  exact ⟨hicen, hdcen⟩

/-- A bit outside the latency field that is no cache enable stays as it was. -/
theorem ReadThenWrite.flash_kept {b : Nat}
    (hout : b < s.params.regs.latency.shift ∨ s.params.regs.latency.shift + s.params.regs.latency.width ≤ b)
    (hbi : b ≠ s.params.regs.icen) (hbd : b ≠ s.params.regs.dcen) :
    (u.mem.word s.params.regs.flashAddr).getLsbD b = (s.mem.word s.params.regs.flashAddr).getLsbD b :=
  h.kept_bit fun t => by
    rw [flashWord_getLsbD hregs, if_neg hbi, if_neg hbd, fieldUpdate_getLsbD, if_neg (by omega)]

end

/-- Settles O13: the profile latch stands over both halves, and the prefetch enable is one of the bits outside the three
places written. -/
theorem flashSetWsWritesTogether : Obligations.FlashSetWsWritesTogether := by
  unfold Obligations.FlashSetWsWritesTogether
  intro s ic dc m p ⟨hmem, hp⟩ hph hprof
  have hregs := paramsWf_regs hp
  have hfirst := exec_flashSetWs hprof ic dc m
  have hsecond := exec_flashSetWs (s := rmwRead s s.params.regs.flashAddr) hprof ic dc m
  obtain ⟨u, hu⟩ := readThenWrite_of_rmw hfirst hsecond hmem hph
  obtain ⟨-, -, hpf⟩ := flash_bits_lt hregs
  obtain ⟨⟨-, -, hlpf⟩, -, hpic, hpdc⟩ := flash_places_apart hregs
  obtain ⟨hicen, hdcen⟩ := hu.flash_enables hregs
  have hprften := hu.flash_kept hregs (Field.outside_of_smask hpf hlpf) hpic hpdc
  exact ⟨u, flashWord_eq .. ▸ hu, hu.flash_latency hregs, hicen, hdcen, hprften, fun _ => hu.flash_kept hregs⟩

end Sys2Proof.Claims
end

section
/-! Proofs for the family of spec/45_prescaler.md: the common form of the three operations, and the field each of them names. -/

namespace Sys2Proof.Machine

theorem hpre_mem (r : RegMap) : (r.cfgAddr, r.hpre.smask) ∈ storageFields r := by simp [storageFields]
theorem ppre1_mem (r : RegMap) : (r.cfgAddr, r.ppre1.smask) ∈ storageFields r := by simp [storageFields]
theorem ppre2_mem (r : RegMap) : (r.cfgAddr, r.ppre2.smask) ∈ storageFields r := by simp [storageFields]

/-- With a profile latched, the common form is a read-modify-write of the field with the profile's code (45 R160). -/
theorem setPrescaler_of_prof {s : State} {p : ClockScaleProfile} (hprof : s.cto.prof = some p) (f : Field)
    (code : ClockScaleProfile → BitVec 8) (m : Mark) :
    setPrescaler s f code m =
      rmw s s.params.regs.cfgAddr (fun t => fieldUpdate f t ((code p).setWidth 32)) (complete m) :=
  withProfile_some s _ p hprof

end Sys2Proof.Machine

namespace Sys2Proof.Claims

open Sys2Proof Sys2Proof.Machine

/-- An operation of the common form makes the two transactions of a read-modify-write and writes its field alone: the
profile latch and the register map stand over both halves. -/
theorem setPrescaler_writes_field {i : Instr} (field : RegMap → Field) (code : ClockScaleProfile → BitVec 8) {m : Mark}
    (hexec : ∀ s, exec i s = .next (setPrescaler s (field s.params.regs) code m)) {s : State} {p : ClockScaleProfile}
    (hs : Sound s) (hph : s.cto.ph = false) (hprof : s.cto.prof = some p)
    (hfield : (s.params.regs.cfgAddr, (field s.params.regs).smask) ∈ storageFields s.params.regs)
    (hfits : (field s.params.regs).shift + (field s.params.regs).width ≤ 32) :
    ∃ u, ReadThenWrite i s u s.params.regs.cfgAddr (updated (field s.params.regs) ((code p).setWidth 32)) m ∧
      OnlyFieldWritten s u s.params.regs.cfgAddr (field s.params.regs) ((code p).setWidth 32) := by
  have hfirst := hexec s
  have hsecond := hexec (rmwRead s s.params.regs.cfgAddr)
  rw [setPrescaler_of_prof hprof] at hfirst
  rw [setPrescaler_of_prof (s := rmwRead s s.params.regs.cfgAddr) hprof] at hsecond
  exact readThenWrite_onlyFieldWritten hfirst hsecond hs hph hfield hfits

/-- Settles O12: the three operations are the common form, each at its own storage field of the clock-configuration word. -/
theorem prescalersWriteTheirFields : Obligations.PrescalersWriteTheirFields := by
  unfold Obligations.PrescalersWriteTheirFields
  intro s m p hs hph hprof
  have hregs := paramsWf_regs hs.2
  refine ⟨?ahb, ?apb1, ?apb2⟩
  case ahb =>
    exact setPrescaler_writes_field (·.hpre) (·.hpre) (fun _ => rfl) hs hph hprof (hpre_mem _)
      (field_fits hregs (by simp))
  case apb1 =>
    exact setPrescaler_writes_field (·.ppre1) (·.ppre1) (fun _ => rfl) hs hph hprof (ppre1_mem _)
      (field_fits hregs (by simp))
  case apb2 =>
    exact setPrescaler_writes_field (·.ppre2) (·.ppre2) (fun _ => rfl) hs hph hprof (ppre2_mem _)
      (field_fits hregs (by simp))

end Sys2Proof.Claims
end

section
/-! Proofs for the family of spec/46_clock_switch.md: the SYSCLK code of a source, the source-select field, and one poll of the
switch status. -/

namespace Sys2Proof.Machine

theorem sw_mem (r : RegMap) : (r.cfgAddr, r.sw.smask) ∈ storageFields r := by simp [storageFields]

theorem withSwCode_none {s : State} {src : ClockSource} (hcode : s.params.codes.sw.get src = none) (k : Word → State) :
    withSwCode s src k = raise .illegalUop s := by
  rw [withSwCode, hcode]

theorem withSwCode_some {s : State} {src : ClockSource} {c : Word} (hcode : s.params.codes.sw.get src = some c)
    (k : Word → State) : withSwCode s src k = k c := by
  rw [withSwCode, hcode]

/-- SW_SELECT of a source with a code is a read-modify-write of the source-select field with that code (46 R171). -/
theorem exec_swSelect {s : State} {src : ClockSource} {c : Word} (hcode : s.params.codes.sw.get src = some c) (m : Mark) :
    exec (.swSelect src m) s = .next (rmw s s.params.regs.cfgAddr
      (fun t => fieldUpdate s.params.regs.sw t c) (complete m)) :=
  congrArg Host.Outcome.next (withSwCode_some hcode _)

/-- SW_WAIT of a source with a code is a poll of the switch status for that code (46 R172). -/
theorem exec_swWait {s : State} {src : ClockSource} {c : Word} (hcode : s.params.codes.sw.get src = some c) (m : Mark) :
    exec (.swWait src m) s = .next (poll s .pollSwitch s.params.regs.cfgAddr
      (fun v => s.params.regs.sws.get v == (c &&& s.params.regs.sws.mask)) (.clockSwitchTimeout src) m) :=
  congrArg Host.Outcome.next (withSwCode_some hcode _)

end Sys2Proof.Machine

namespace Sys2Proof.Claims

open Sys2Proof Sys2Proof.Machine

/-- A failed poll counts, and raises its fault when the count reaches a nonzero limit (60 R224, R236). -/
theorem failedPoll_eq_faultedWith (c : Cto) (f : FaultCause) :
    c.failedPoll f =
      if c.limit ≠ 0 ∧ c.pollcnt + 1 = c.limit then faultedWith { c with pollcnt := c.pollcnt + 1 } f.code f.source
      else { c with pollcnt := c.pollcnt + 1 } := by
  split
  · next hlimit => exact c.failedPoll_timeout f hlimit
  · next hlimit => exact c.failedPoll_again f hlimit

/-- A poll is one read; the CTO is then that of a completion or of a failed poll, by the word read (46 R172). -/
theorem oneRead_poll (s : State) (why : Purpose) (a : Addr) (ok : Word → Bool) (f : FaultCause) (m : Mark) :
    OneRead s (poll s why a ok f m) why a
      (if ok (readValue s why a) = true then Claims.completed s.cto m else s.cto.failedPoll f) := by
  have hread := oneRead_afterRead s why a
  split
  · next hok =>
    rw [poll_ok _ _ _ _ _ _ hok, ← complete_eq_completed]
    exact hread.withCto _
  · next hok =>
    rw [poll_failed _ _ _ _ _ _ (eq_false_of_ne_true hok)]
    exact hread.withCto _

/-- Settles O8: the code table stands over both halves, and the source-select field is a storage field of the map. -/
theorem swSelectWritesTheSelectField : Obligations.SwSelectWritesTheSelectField := by
  unfold Obligations.SwSelectWritesTheSelectField
  intro s src m c hs hph hcode
  have hfirst := exec_swSelect hcode m
  have hsecond := exec_swSelect (s := rmwRead s s.params.regs.cfgAddr) hcode m
  exact readThenWrite_onlyFieldWritten hfirst hsecond hs hph (sw_mem _) (field_fits (paramsWf_regs hs.2) (by simp))

/-- Settles O9: with a code, SW_WAIT is one poll, which succeeds when the switch status read is that code. -/
theorem swWaitPolls : Obligations.SwWaitPolls := by
  unfold Obligations.SwWaitPolls
  intro s src m c hcode
  have hread := oneRead_poll s .pollSwitch s.params.regs.cfgAddr
    (fun v => s.params.regs.sws.get v == (c &&& s.params.regs.sws.mask)) (.clockSwitchTimeout src) m
  simp only [beq_iff_eq, failedPoll_eq_faultedWith] at hread
  exact ⟨_, exec_swWait hcode m, hread⟩

/-- Settles O10: both operations look the code up before they look at the phase or make a transaction. -/
theorem unselectableSourceFaults : Obligations.UnselectableSourceFaults := by
  unfold Obligations.UnselectableSourceFaults
  intro s src m hcode
  have hraise : ∀ k, withSwCode s src k = { s with cto := faultedWith s.cto 4 0 } := withSwCode_none hcode
  exact ⟨congrArg Host.Outcome.next (hraise _), congrArg Host.Outcome.next (hraise _)⟩

end Sys2Proof.Claims
end

section
/-! Proofs for the family of spec/47_orchestrator.md: the sequence the fixed micro-ROM holds, what a run of it keeps, and the
orchestrator's own micro-operations. -/

namespace Sys2Proof.Machine

/-! ## The instructions of the fixed micro-ROM (47 R183, R184) -/

/-- The micro-operation at a word of the fixed micro-ROM, from the hard-wired view of the sequence (47 R184). -/
def romInstr (k : Nat) : Instr := ((allStates.flatMap actionsFrom)[k]?).getD (.uEnd .keep)

/-- With codes for the two sources it selects, words 0 to 18 of the micro-ROM decode to the sequence. -/
theorem decodeU_rom {sw : PerSource (Option Word)} (hhsi : sw.hsi.isSome = true) (hpll : sw.pll.isSome = true)
    {k : BitVec 5} (hk : k.toNat ≤ 18) : decodeU sw (rom.get k.toFin) = .ok (romInstr k.toNat) := by
  obtain ⟨hsi, hse, pll, pllsai, plli2s, lse, lsi⟩ := sw
  obtain ⟨c, rfl⟩ := Option.isSome_iff_exists.1 hhsi
  obtain ⟨d, rfl⟩ := Option.isSome_iff_exists.1 hpll
  obtain ⟨n, hn, rfl⟩ : ∃ n, n ≤ 18 ∧ k = BitVec.ofNat 5 n := ⟨k.toNat, hk, by simp⟩
  interval_cases n <;> rfl

/-- Each word before the last enters the state that names it as completed (47 R182). -/
theorem stateAtWord_succ {k : Nat} (hk : k < 18) :
    stateAtWord (k + 1) = Mark.apply (markOf (romInstr k)) (stateAtWord k) := by
  interval_cases k <;> rfl

section
variable {k : Nat} (hk : k ≤ 18)
include hk

theorem romInstr_format : (romInstr k).format = .u := by
  interval_cases k <;> rfl

/-! Where the operations that matter to the sequence stand. -/

/-- END is the last word, and keeps the state. -/
theorem romInstr_eq_uEnd {m : Mark} (h : romInstr k = .uEnd m) : k = 18 ∧ m = .keep := by
  interval_cases k <;> cases h
  exact ⟨rfl, rfl⟩

theorem romInstr_eq_profLookup {m : Mark} (h : romInstr k = .profLookup m) : k = 5 := by
  interval_cases k <;> cases h
  rfl

theorem romInstr_eq_freqPublish {m : Mark} (h : romInstr k = .freqPublish m) : k = 16 := by
  interval_cases k <;> cases h
  rfl

/-- Every reader of the profile latch stands after PROF_LOOKUP (10 R25). -/
theorem lookup_before_reader (h : readsProfile (romInstr k) = true) : 5 < k := by
  by_contra hle
  interval_cases k <;> cases h

/-- The sequence selects no source but HSI and PLL. -/
theorem romInstr_selects {src : ClockSource} {m : Mark} (h : romInstr k = .swSelect src m ∨ romInstr k = .swWait src m) :
    src = .hsi ∨ src = .pll := by
  interval_cases k <;> rcases h with h | h <;> cases h <;> decide

end

theorem romInstr_lookup : romInstr 5 = .profLookup .keep := rfl
theorem romInstr_publish : romInstr 16 = .freqPublish (.enter .frequenciesPublished) := rfl
theorem romInstr_end : romInstr 18 = .uEnd .keep := rfl

/-- No other fault has the code of IllegalUop (60 R221). -/
theorem FaultCause.eq_illegalUop {f : FaultCause} (h : f.code = FaultCause.code .illegalUop) : f = .illegalUop := by
  cases f <;> simp [FaultCause.code] at h ⊢

/-- No other fault has the code of NoProfile (60 R221). -/
theorem FaultCause.eq_noProfile {f : FaultCause} (h : f.code = FaultCause.code .noProfile) : f = .noProfile := by
  cases f <;> simp [FaultCause.code] at h ⊢

end Sys2Proof.Machine

namespace Sys2Proof.Safety

open Sys2Proof.Machine

/-! ## What every step of a run of the fixed micro-ROM keeps -/

/-- No word of the sequence is so late that `upc` wraps behind it. -/
theorem toNat_upc_succ {k : BitVec 5} (hk : k.toNat ≤ 18) : (k + 1).toNat = k.toNat + 1 := by
  rw [BitVec.toNat_add]
  exact Nat.mod_eq_of_lt (by simp; omega)

/-- The pieces of the CTO that the sequence's invariant speaks of are as before, the cause of a fault apart. -/
structure SameProgress (c c' : Cto) : Prop where
  busy : c'.busy = c.busy
  upc : c'.upc = c.upc
  state : c'.state = c.state
  prof : c'.prof = c.prof
  done : c'.done = c.done
  bank : c'.bank = c.bank
  crystal : c'.crystalCode = c.crystalCode

/-- Neither of the two faults that the fixed micro-ROM excludes is recorded (60 R221). -/
def NoInternalFault (c : Cto) : Prop :=
  c.faultCode ≠ FaultCause.code .illegalUop ∧ c.faultCode ≠ FaultCause.code .noProfile

/-- A step that leaves the progress of the run keeps the sequence. -/
theorem RomInv.of_sameProgress {s t : State} (h : RomInv s) (hparams : t.params = s.params) (hurom : t.urom = s.urom)
    (hsame : SameProgress s.cto t.cto) (hcauses : NoInternalFault t.cto) : RomInv t := by
  obtain ⟨hbusy, hupc, hstate, hprof, hdone, hbank, hcrystal⟩ := hsame
  constructor
  case fixed => exact hurom.trans h.fixed
  case switchable => exact hparams ▸ h.switchable
  case progress => rw [hbusy, hupc, hstate]; exact h.progress
  case latched => rw [hbusy, hupc, hprof]; exact h.latched
  case finished => rw [hdone, hstate, hprof]; exact h.finished
  case published => rw [hdone, hbusy, hupc, hprof, hbank, hcrystal, hparams]; exact h.published
  case causes => exact hcauses

section
variable {s : State} (h : RomInv s)
include h

/-- During a run the word at `upc` decodes to the sequence's instruction, so no IllegalUop occurs. -/
theorem RomInv.decode_fetch (hbusy : s.cto.busy = true) :
    decodeU s.params.codes.sw (fetch s) = .ok (romInstr s.cto.upc.toNat) := by
  rw [fetch, h.fixed]
  exact decodeU_rom h.switchable.1 h.switchable.2 (h.progress hbusy).1

/-- The faults a micro-operation of the sequence raises are none of the two. -/
theorem RomInv.raise_cause {f : FaultCause} (hbusy : s.cto.busy = true)
    (hnoProfile : f = .noProfile → s.cto.prof = none ∧ readsProfile (romInstr s.cto.upc.toNat) = true)
    (hillegal : f = .illegalUop → ∃ src m, (romInstr s.cto.upc.toNat = .swSelect src m ∨
      romInstr s.cto.upc.toNat = .swWait src m) ∧ s.params.codes.sw.get src = none) :
    f.code ≠ FaultCause.code .illegalUop ∧ f.code ≠ FaultCause.code .noProfile := by
  obtain ⟨hupc, -⟩ := h.progress hbusy
  obtain ⟨hhsi, hpll⟩ := h.switchable
  refine ⟨fun hcode => ?_, fun hcode => ?_⟩
  · obtain ⟨src, m, hinstr, hnone⟩ := hillegal (FaultCause.eq_illegalUop hcode)
    rcases romInstr_selects hupc hinstr with rfl | rfl
    · exact absurd hnone (Option.isSome_iff_ne_none.1 hhsi)
    · exact absurd hnone (Option.isSome_iff_ne_none.1 hpll)
  · obtain ⟨hnone, hreads⟩ := hnoProfile (FaultCause.eq_noProfile hcode)
    exact absurd hnone (Option.isSome_iff_ne_none.1 (h.latched hbusy (lookup_before_reader hupc hreads)))

/-- Completing a word moves the run on to the next word and its state. -/
theorem RomInv.complete_word {t : State} {prof : Option ClockScaleProfile} {bank : Bank} {rdy : Bool}
    (hbusy : s.cto.busy = true) (hdone : s.cto.done = false) (hparams : t.params = s.params) (hurom : t.urom = s.urom)
    (hcto : t.cto = Cto.complete { s.cto with prof := prof, bank := bank, rdy := rdy } (markOf (romInstr s.cto.upc.toNat)))
    (hlast : s.cto.upc.toNat ≠ 18) (hlatched : 5 ≤ s.cto.upc.toNat → prof.isSome = true)
    (hpublished : 16 ≤ s.cto.upc.toNat → ∀ p, prof = some p → bank = publishedBank s.params s.cto.crystalCode p) :
    RomInv t := by
  obtain ⟨hupc, hstate⟩ := h.progress hbusy
  have hnext : t.cto.upc.toNat = s.cto.upc.toNat + 1 := by rw [hcto]; exact toNat_upc_succ hupc
  have hdoneT : t.cto.done = false := by rw [hcto]; exact hdone
  constructor
  case fixed => exact hurom.trans h.fixed
  case switchable => exact hparams ▸ h.switchable
  case progress =>
    refine fun _ => ⟨by omega, ?_⟩
    rw [hnext, stateAtWord_succ (by omega), ← hstate, hcto]
    rfl
  case latched =>
    intro _ hafter
    rw [hcto]
    exact hlatched (by omega)
  case finished => exact fun hd => by simp [hdoneT] at hd
  case published =>
    rintro (hd | ⟨-, hafter⟩)
    · simp [hdoneT] at hd
    · rw [hcto, hparams]
      exact hpublished (by omega)
  case causes =>
    rw [hcto]
    exact h.causes

/-- END leaves a completed run in the last state, published. -/
theorem RomInv.finish {t : State} (hbusy : s.cto.busy = true) (hlast : s.cto.upc.toNat = 18)
    (hparams : t.params = s.params) (hurom : t.urom = s.urom) (hcto : t.cto = s.cto.finish .keep) : RomInv t := by
  obtain ⟨-, hstate⟩ := h.progress hbusy
  constructor
  case fixed => exact hurom.trans h.fixed
  case switchable => exact hparams ▸ h.switchable
  case progress => exact fun hb => by simp [hcto] at hb
  case latched => exact fun hb => by simp [hcto] at hb
  case finished =>
    rw [hcto]
    exact fun _ => ⟨hstate.trans (by rw [hlast]; rfl), h.latched hbusy (by omega)⟩
  case published =>
    rw [hcto, hparams]
    exact fun _ => h.published (.inr ⟨hbusy, by omega⟩)
  case causes =>
    rw [hcto]
    exact h.causes

/-- Every micro-operation of a running sequencer keeps the sequence. -/
theorem RomInv.micro {t : State} (hinv : CtoInv s.cto) (hbusy : s.cto.busy = true)
    (hstep : MicroStep (romInstr s.cto.upc.toNat) s t) : RomInv t := by
  obtain ⟨hupc, -⟩ := h.progress hbusy
  have hdone : s.cto.done = false := eq_false_of_ne_true fun hd => by simp [hinv.done_idle hd] at hbusy
  cases hstep.cto with
  | half v _ hc =>
    exact h.of_sameProgress hstep.params hstep.urom (hc ▸ ⟨rfl, rfl, rfl, rfl, rfl, rfl, rfl⟩) (hc ▸ h.causes)
  | poll n _ hc =>
    exact h.of_sameProgress hstep.params hstep.urom (hc ▸ ⟨rfl, rfl, rfl, rfl, rfl, rfl, rfl⟩) (hc ▸ h.causes)
  | raise f n hnoProfile hillegal _ hc =>
    exact h.of_sameProgress hstep.params hstep.urom (hc ▸ ⟨rfl, rfl, rfl, rfl, rfl, rfl, rfl⟩)
      (hc ▸ h.raise_cause hbusy hnoProfile hillegal)
  | fin m hi hc =>
    obtain ⟨hlast, rfl⟩ := romInstr_eq_uEnd hupc hi
    exact h.finish hbusy hlast hstep.params hstep.urom hc
  | done prof bank rdy hprof hbank hlooked hpublished hend hc =>
    refine h.complete_word hbusy hdone hstep.params hstep.urom hc (fun h18 => ?_) (fun h5 => ?_) (fun h16 p hp => ?_)
    · exact hend .keep (by rw [h18, romInstr_end])
    · rcases Nat.eq_or_lt_of_le h5 with h5 | h5
      · exact hlooked .keep (by rw [← h5, romInstr_lookup])
      · rcases hprof with rfl | ⟨m, hi, -, -⟩
        · exact h.latched hbusy h5
        · have := romInstr_eq_profLookup hupc hi
          omega
    · have hkept : prof = s.cto.prof := by
        refine hprof.resolve_right fun ⟨m, hi, _⟩ => ?_
        have := romInstr_eq_profLookup hupc hi
        omega
      rw [hkept] at hp
      rcases Nat.eq_or_lt_of_le h16 with h16 | h16
      · exact hpublished _ (by rw [← h16, romInstr_publish]) p hp
      · rcases hbank with rfl | ⟨m, q, hi, -, -⟩
        · exact h.published (.inr ⟨hbusy, h16⟩) p hp
        · have := romInstr_eq_freqPublish hupc hi
          omega

/-- Every host access keeps the sequence: acceptance starts it anew (48 R202). -/
theorem RomInv.host {t : State} (hstep : HostStep s t) : RomInv t := by
  cases hstep.cto with
  | verdict v hc =>
    exact h.of_sameProgress hstep.params hstep.urom (hc ▸ ⟨rfl, rfl, rfl, rfl, rfl, rfl, rfl⟩) (hc ▸ h.causes)
  | limit v hc =>
    exact h.of_sameProgress hstep.params hstep.urom (hc ▸ ⟨rfl, rfl, rfl, rfl, rfl, rfl, rfl⟩) (hc ▸ h.causes)
  | same hc =>
    exact h.of_sameProgress hstep.params hstep.urom (hc ▸ ⟨rfl, rfl, rfl, rfl, rfl, rfl, rfl⟩) (hc ▸ h.causes)
  | accept crystal target _ _ _ _ hc =>
    constructor
    case fixed => exact hstep.urom.trans h.fixed
    case switchable => exact hstep.params ▸ h.switchable
    case progress => exact fun _ => by rw [hc]; exact ⟨Nat.zero_le _, rfl⟩
    case latched => exact fun _ hafter => by simp [hc] at hafter
    case finished => exact fun hd => by simp [hc] at hd
    case published => exact fun _ p hp => by simp [hc] at hp
    case causes =>
      rw [hc]
      exact h.causes

/-- Reset leaves no run, ended or in progress, and no fault recorded. -/
theorem RomInv.reset {t : State} (hparams : t.params = s.params) (hurom : t.urom = s.urom) (hcto : t.cto = Cto.reset) :
    RomInv t := by
  constructor
  case fixed => exact hurom.trans h.fixed
  case switchable => exact hparams ▸ h.switchable
  case progress => exact hcto ▸ nofun
  case latched => exact hcto ▸ nofun
  case finished => exact hcto ▸ nofun
  case published => exact hcto ▸ nofun
  case causes =>
    rw [hcto]
    decide

end

end Sys2Proof.Safety

namespace Sys2Proof.Claims

open Sys2Proof Sys2Proof.Machine Sys2Proof.Safety

/-- Settles O52: by the six ways of a step; an illegal word is not among those the fixed micro-ROM holds. -/
theorem stepKeepsTheSequence : Obligations.StepKeepsTheSequence := by
  unfold Obligations.StepKeepsTheSequence
  intro s t hinv hrom hstep
  have hs : RomInv { s with agenda := s.agenda.tail } :=
    hrom.of_sameProgress rfl rfl ⟨rfl, rfl, rfl, rfl, rfl, rfl, rfl⟩ hrom.causes
  cases step_cases hstep with
  | idle ht => exact ht ▸ hs
  | illegal r _ hbusy _ hdecode _ =>
    rw [hrom.decode_fetch hbusy] at hdecode
    cases hdecode
  | micro i _ hbusy _ hdecode hmicro =>
    rw [hrom.decode_fetch hbusy] at hdecode
    cases hdecode
    exact hs.micro hinv.cto hbusy hmicro
  | host a _ hhost => exact hs.host hhost
  | reset _ ht => exact hs.reset (ht ▸ rfl) (ht ▸ rfl) (ht ▸ rfl)
  | foreign a v _ _ ht =>
    subst ht
    exact hrom.of_sameProgress rfl rfl ⟨rfl, rfl, rfl, rfl, rfl, rfl, rfl⟩ hrom.causes

end Sys2Proof.Claims
end

section
/-! Further proofs for the family of spec/47_orchestrator.md: the sequencer's turn, its four own micro-operations, and the
arithmetic of the published frequencies. -/

namespace Sys2Proof.Machine

/-! ## The sequencer's turn (47 R180) -/

theorem sequencerTurn_of_ok {s : State} {i : Instr} (hbusy : s.cto.busy = true) (hfault : s.cto.fault = false)
    (h : decodeU s.params.codes.sw (fetch s) = .ok i) : sequencerTurn s = exec i s := by
  simp [sequencerTurn, Cto.running, hbusy, hfault, h]

theorem sequencerTurn_of_idle {s : State} (h : s.cto.busy = false ∨ s.cto.fault = true) : sequencerTurn s = .next s := by
  rcases h with h | h <;> simp [sequencerTurn, Cto.running, h]

/-! ## The entry that PROF_LOOKUP selects (47 R185) -/

theorem profileAt_of_row {q : Params} {c t : BitVec 8} {row : List ClockScaleProfile} {p : ClockScaleProfile}
    (hrow : q.profiles[c.toNat]? = some row) (hentry : row[t.toNat]? = some p) : profileAt q c t = p := by
  simp [profileAt, List.getD_eq_getElem?_getD, hrow, hentry]

theorem badProfile_eq_true_iff {k : Codes} {p : ClockScaleProfile} :
    badProfile k p = true ↔ p.pllm = 0 ∨ p.pllp = 0 ∨ encP k p.pllp = none := by
  simp [badProfile, or_assoc]

/-- PROF_LOOKUP of an entry that can be executed latches it (47 R185). -/
theorem exec_profLookup_of_good {s : State} (h : badProfile s.params.codes (selectedProfile s) = false) (m : Mark) :
    exec (.profLookup m) s =
      .next { s with cto := Cto.complete { s.cto with prof := some (selectedProfile s) } m } :=
  congrArg Host.Outcome.next (if_neg (ne_true_of_eq_false h))

/-- PROF_LOOKUP of an entry that cannot be executed raises BadProfile (47 R185). -/
theorem exec_profLookup_of_bad {s : State} (h : badProfile s.params.codes (selectedProfile s) = true) (m : Mark) :
    exec (.profLookup m) s = .next (raise .badProfile s) :=
  congrArg Host.Outcome.next (if_pos h)

/-! ## What FREQ_PUBLISH writes (47 R186, R187) -/

theorem exec_freqPublish {s : State} {p : ClockScaleProfile} (hprof : s.cto.prof = some p) (m : Mark) :
    exec (.freqPublish m) s =
      .next { s with cto := Cto.complete { s.cto with bank := publishedBank s.params s.cto.crystalCode p } m } :=
  congrArg Host.Outcome.next (withProfile_some s _ p hprof)

theorem quot_of_pos (n : Nat) {d : Nat} (hd : 0 < d) : quot n d = n / d := if_neg (Nat.ne_of_gt hd)

theorem toNat_pos_of_ne_zero {w : Nat} {d : BitVec w} (h : d ≠ 0) : 0 < d.toNat :=
  Nat.pos_of_ne_zero fun hz => h (BitVec.eq_of_toNat_eq hz)

section
variable {q : Params} {p : ClockScaleProfile} (hm : p.pllm ≠ 0) (hp : p.pllp ≠ 0)
include hm hp

/-- No division of the SYSCLK formula is by zero for an entry that PROF_LOOKUP lets pass (47 R186). -/
theorem sysHz_eq (c : Nat) : sysHz c p = c / p.pllm.toNat * p.plln.toNat / p.pllp.toNat := by
  rw [sysHz, vcoHz, vinHz, quot_of_pos _ (toNat_pos_of_ne_zero hm), quot_of_pos _ (toNat_pos_of_ne_zero hp)]

variable (hq : tablesWf q = true)
include hq

theorem ahbHz_eq (c : Nat) :
    ahbHz q.codes c p = c / p.pllm.toNat * p.plln.toNat / p.pllp.toNat / hpreDiv q.codes p.hpre := by
  rw [ahbHz, sysHz_eq hm hp, quot_of_pos _ (hpreDiv_pos hq _)]

theorem apb1Hz_eq (c : Nat) :
    apb1Hz q.codes c p =
      c / p.pllm.toNat * p.plln.toNat / p.pllp.toNat / hpreDiv q.codes p.hpre / ppreDiv q.codes p.ppre1 := by
  rw [apb1Hz, ahbHz_eq hm hp hq, quot_of_pos _ (ppreDiv_pos hq _)]

theorem apb2Hz_eq (c : Nat) :
    apb2Hz q.codes c p =
      c / p.pllm.toNat * p.plln.toNat / p.pllp.toNat / hpreDiv q.codes p.hpre / ppreDiv q.codes p.ppre2 := by
  rw [apb2Hz, ahbHz_eq hm hp hq, quot_of_pos _ (ppreDiv_pos hq _)]

end

/-- The published Hz values are the frequencies modulo `2 ^ 32`, and nothing but them is truncated. -/
theorem publishedBank_hz (q : Params) (cr : BitVec 8) (p : ClockScaleProfile) :
    (publishedBank q cr p).ahbHz.toNat = ahbHz q.codes (crystalHzAt q cr) p % 2 ^ 32 ∧
    (publishedBank q cr p).apb1Hz.toNat = apb1Hz q.codes (crystalHzAt q cr) p % 2 ^ 32 ∧
    (publishedBank q cr p).apb2Hz.toNat = apb2Hz q.codes (crystalHzAt q cr) p % 2 ^ 32 :=
  ⟨BitVec.toNat_ofNat .., BitVec.toNat_ofNat .., BitVec.toNat_ofNat ..⟩

/-- A quotient of a published value fits a register. -/
theorem toNat_ofNat_div (hz : Word) (d : Nat) : (BitVec.ofNat 32 (hz.toNat / d)).toNat = hz.toNat / d :=
  BitVec.toNat_ofNat .. |>.trans (Nat.mod_eq_of_lt (Nat.lt_of_le_of_lt (Nat.div_le_self ..) hz.isLt))

end Sys2Proof.Machine

namespace Sys2Proof.Claims

open Sys2Proof Sys2Proof.Machine Sys2Proof.Safety

/-- Settles O39: a turn that is listed is the same turn, with the list one shorter. -/
theorem stepRunsTheDecodedMicroWord : Obligations.StepRunsTheDecodedMicroWord := by
  unfold Obligations.StepRunsTheDecodedMicroWord
  intro s rest i hp hbusy hfault hdecode
  refine ⟨fun ha => ?_, fun ha => ?_⟩
  · rw [step_of_agenda_nil hp ha]
    exact sequencerTurn_of_ok hbusy hfault hdecode
  · rw [step_of_agenda_cons hp ha]
    exact sequencerTurn_of_ok (s := { s with agenda := rest }) hbusy hfault hdecode

/-- Settles O42: the sequencer has no step then, listed or not. -/
theorem idleSequencerHolds : Obligations.IdleSequencerHolds := by
  unfold Obligations.IdleSequencerHolds
  intro s rest hp hidle
  refine ⟨fun ha => ?_, fun ha => ?_⟩
  · rw [step_of_agenda_nil hp ha]
    exact sequencerTurn_of_idle hidle
  · rw [step_of_agenda_cons hp ha]
    exact sequencerTurn_of_idle (s := { s with agenda := rest }) hidle

/-- Settles O17: the selected entry is the table's, and the two cases are those of the check on it. -/
theorem profLookupLatchesTheEntry : Obligations.ProfLookupLatchesTheEntry := by
  unfold Obligations.ProfLookupLatchesTheEntry
  intro s m c t row p hc ht hrow hentry
  have hselected : selectedProfile s = p := by
    simpa [selectedProfile, Cto.crystalCode, Cto.targetCode, hc, ht] using profileAt_of_row hrow hentry
  split
  · next hbad =>
    exact exec_profLookup_of_bad (by rw [hselected]; exact badProfile_eq_true_iff.2 hbad) m
  · next hgood =>
    rw [← complete_eq_completed, ← hselected]
    refine exec_profLookup_of_good ?_ m
    rw [hselected]
    exact eq_false_of_ne_true fun h => hgood (badProfile_eq_true_iff.1 h)

/-- Settles O18: the nine values are those of the published bank, and no divisor of the formula is zero. -/
theorem freqPublishWritesTheBank : Obligations.FreqPublishWritesTheBank := by
  unfold Obligations.FreqPublishWritesTheBank
  intro s m cr p c hcr hc hprof hm hp hparams
  have htables := paramsWf_tables hparams
  have hhz : crystalHzAt s.params s.cto.crystalCode = c := by
    simp [crystalHzAt, Cto.crystalCode, hcr, List.getD_eq_getElem?_getD, hc]
  obtain ⟨hahb, hapb1, hapb2⟩ := publishedBank_hz s.params s.cto.crystalCode p
  rw [hhz, ahbHz_eq hm hp htables] at hahb
  rw [hhz, apb1Hz_eq hm hp htables] at hapb1
  rw [hhz, apb2Hz_eq hm hp htables] at hapb2
  refine ⟨_, ?_, hahb, hapb1, hapb2, toNat_ofNat_div .., toNat_ofNat_div .., toNat_ofNat_div .., toNat_ofNat_div ..,
    toNat_ofNat_div .., toNat_ofNat_div ..⟩
  rw [← complete_eq_completed]
  exact exec_freqPublish hprof m

/-- Settles O19: the VCO frequency of such an entry fits 32 bits, and every later value is a quotient of it. -/
theorem validProfilePublishesExactly : Obligations.ValidProfilePublishesExactly := by
  unfold Obligations.ValidProfilePublishesExactly
  intro q cr p hparams hvalid hp
  simp only [profileValid, Bool.and_eq_true, bne_iff_ne, decide_eq_true_eq] at hvalid
  obtain ⟨⟨hm, -⟩, -, hvco⟩ := hvalid
  have htables := paramsWf_tables hparams
  have hquot : ∀ {n : Nat} (d : Nat), n ≤ Config.vcoMax → n / d ≤ Config.vcoMax :=
    fun d hn => (Nat.div_le_self _ d).trans hn
  have hfits : ∀ {n : Nat}, n ≤ Config.vcoMax → n % 2 ^ 32 = n :=
    fun hn => Nat.mod_eq_of_lt (Nat.lt_of_le_of_lt hn (by decide))
  have hahb := hquot (hpreDiv q.codes p.hpre) (hquot p.pllp.toNat hvco)
  obtain ⟨h1, h2, h3⟩ := publishedBank_hz q cr p
  rw [h1, h2, h3, ahbHz_eq hm hp htables, apb1Hz_eq hm hp htables, apb2Hz_eq hm hp htables]
  exact ⟨hfits hahb, hfits (hquot _ hahb), hfits (hquot _ hahb)⟩

/-- Settles O20: both banks are the published bank of the same three operands. -/
theorem publicationIsAFunctionOfOperands : Obligations.PublicationIsAFunctionOfOperands := by
  unfold Obligations.PublicationIsAFunctionOfOperands
  intro s s' t t' m m' hparams hcrystal hprof hlatched ht ht'
  obtain ⟨p, hp⟩ := Option.ne_none_iff_exists'.1 hlatched
  rw [exec_freqPublish hp] at ht
  rw [exec_freqPublish (hprof.symm.trans hp)] at ht'
  cases ht
  cases ht'
  simp [Cto.crystalCode, hparams, hcrystal]

/-- Settles O21: END is `Cto.finish`, in one step. -/
theorem endFinishesTheRun : Obligations.EndFinishesTheRun := by
  unfold Obligations.EndFinishesTheRun
  intro s m
  cases m <;> rfl

/-- Settles O24: by what a micro-operation can leave the CTO as. -/
theorem microProgramCounterMoves : Obligations.MicroProgramCounterMoves := by
  unfold Obligations.MicroProgramCounterMoves
  intro i s t hi h
  cases (exec_micro hi h).cto with
  | half v _ hc => exact .inl (hc ▸ ⟨rfl, rfl⟩)
  | raise f n _ _ _ hc => exact .inl (hc ▸ ⟨rfl, rfl⟩)
  | poll n _ hc => exact .inl (hc ▸ ⟨rfl, rfl⟩)
  | done prof bank rdy _ _ _ _ _ hc => exact .inr (.inl (hc ▸ ⟨rfl, rfl, rfl, rfl⟩))
  | fin m hi hc => exact .inr (.inr ⟨m, hi, hc ▸ ⟨rfl, rfl⟩⟩)

end Sys2Proof.Claims
end

section
/-! Runs of the sequencer alone, with the fixed micro-ROM (spec/47_orchestrator.md R192, R193). -/

namespace Sys2Proof.Safety

open Sys2Proof.Machine Sys2Proof.Claims

/-! ## Steps of the sequencer alone -/

/-- The machine's invariant and the sequence's hold, and only the sequencer has turns to come. -/
structure Alone (s : State) : Prop where
  inv : Inv s
  rom : RomInv s
  agenda : s.agenda = []

section
variable {s t : State} (h : Alone s)
include h

theorem Alone.microStep (hbusy : s.cto.busy = true) (hexec : exec (romInstr s.cto.upc.toNat) s = .next t) :
    MicroStep (romInstr s.cto.upc.toNat) s t :=
  exec_micro (decodeU_format (h.rom.decode_fetch hbusy)) hexec

variable (hstep : step s = .next t)
include hstep

/-- A step of the sequencer alone changes nothing or runs the sequence's word at `upc`. -/
theorem Alone.step_cases :
    t = s ∨ (paramsWf s.params = true ∧ s.cto.busy = true ∧ s.cto.fault = false ∧
      exec (romInstr s.cto.upc.toNat) s = .next t) := by
  have hp : paramsWf s.params = true := by
    by_contra hp
    rw [step_of_not_paramsWf (eq_false_of_ne_true hp)] at hstep
    cases hstep
  rw [step_of_agenda_nil hp h.agenda] at hstep
  by_cases hidle : s.cto.busy = false ∨ s.cto.fault = true
  · rw [sequencerTurn_of_idle hidle] at hstep
    cases hstep
    exact .inl rfl
  · simp only [not_or, Bool.not_eq_false, Bool.not_eq_true] at hidle
    obtain ⟨hbusy, hfault⟩ := hidle
    rw [sequencerTurn_of_ok hbusy hfault (h.rom.decode_fetch hbusy)] at hstep
    exact .inr ⟨hp, hbusy, hfault, hstep⟩

theorem Alone.next : Alone t where
  inv := stepKeepsTheInvariants s t h.inv hstep
  rom := stepKeepsTheSequence s t h.inv h.rom hstep
  agenda := by
    rcases h.step_cases hstep with rfl | ⟨-, hbusy, -, hexec⟩
    · exact h.agenda
    · exact (h.microStep hbusy hexec).agenda.trans h.agenda

/-- While a run goes on it was in progress before, and `upc` never falls (47 R189). -/
theorem Alone.upc_le (hbusy : t.cto.busy = true) : s.cto.busy = true ∧ s.cto.upc.toNat ≤ t.cto.upc.toNat := by
  rcases h.step_cases hstep with rfl | ⟨-, hrun, -, hexec⟩
  · exact ⟨hbusy, le_rfl⟩
  · have hupc := (h.rom.progress hrun).1
    refine ⟨hrun, ?_⟩
    cases (h.microStep hrun hexec).cto with
    | half v _ hc => exact hc ▸ le_rfl
    | poll n _ hc => exact hc ▸ le_rfl
    | raise f n _ _ _ hc => exact hc ▸ le_rfl
    | fin m _ hc => simp [hc] at hbusy
    | done prof bank rdy _ _ _ _ _ hc =>
      rw [hc, Cto.complete_upc, toNat_upc_succ (k := s.cto.upc) (by omega)]
      exact Nat.le_succ _

end

/-- The transactions of a run of the sequencer alone stand in the order of the micro-ROM, from the word it stood at. -/
theorem Alone.trace_in_order {n : Nat} {s t : State} (h : Alone s) (hrun : Host.Core.run core n s = .next t) :
    ∃ l, t.trace = s.trace ++ l ∧ inRomOrder l ∧
      ∀ x ∈ l, s.cto.busy = true ∧ s.cto.upc.toNat ≤ x.upc.toNat ∧ x.upc.toNat ≤ 18 := by
  induction n generalizing s with
  | zero =>
    cases hrun
    exact ⟨[], by simp, .nil, by simp⟩
  | succ n ih =>
    obtain ⟨u, hstep, hrest⟩ := run_succ_inv hrun
    obtain ⟨l, htrace, horder, hwords⟩ := ih (h.next hstep) hrest
    have hlater : ∀ x ∈ l, s.cto.busy = true ∧ s.cto.upc.toNat ≤ x.upc.toNat ∧ x.upc.toNat ≤ 18 := by
      intro x hx
      obtain ⟨hbusy, hlow, hhigh⟩ := hwords x hx
      obtain ⟨hbusyS, hle⟩ := h.upc_le hstep hbusy
      exact ⟨hbusyS, hle.trans hlow, hhigh⟩
    rcases atMostOneTransactionAStep s u hstep with hnone | ⟨x, hone, hupc, -, -, hbusy, -⟩
    · exact ⟨l, by rw [htrace, hnone], horder, hlater⟩
    · refine ⟨x :: l, by rw [htrace, hone, List.append_assoc]; rfl, .cons (fun y hy => ?_) horder,
        List.forall_mem_cons.2 ⟨?_, hlater⟩⟩
      · rw [hupc]
        exact (hlater y hy).2.1
      · rw [hupc]
        exact ⟨hbusy, le_rfl, (h.rom.progress hbusy).1⟩

end Sys2Proof.Safety

namespace Sys2Proof.Claims

open Sys2Proof Sys2Proof.Machine Sys2Proof.Safety

/-- Settles O54: each step records at its `upc`, which never falls while the run goes on. -/
theorem traceFollowsTheMicroRom : Obligations.TraceFollowsTheMicroRom := by
  unfold Obligations.TraceFollowsTheMicroRom
  intro n s t hinv hrom hagenda hrun
  obtain ⟨l, htrace, horder, hwords⟩ := Alone.trace_in_order ⟨hinv, hrom, hagenda⟩ hrun
  exact ⟨l, htrace, horder, fun x hx => (hwords x hx).2⟩

end Sys2Proof.Claims
end

section
/-! A run that finds the PLL enabled (spec/47_orchestrator.md R193, spec/42_pll.md R143): what the words before PLL_CONFIGURE
write, and that they leave the PLL enable bit. -/

namespace Sys2Proof.Machine

/-! ## Writes that keep the bits outside a mask -/

/-- The word function changes no bit outside the mask. -/
def KeepsOutside (mask : Word) (f : Word → Word) : Prop :=
  ∀ t b, mask.getLsbD b = false → (f t).getLsbD b = t.getLsbD b

theorem setBits_keepsOutside (k : Word) : KeepsOutside k fun t => setBits t k := by
  intro t b hb
  simp [setBits, hb]

theorem fieldUpdate_keepsOutside (f : Field) (v : Word) : KeepsOutside f.smask fun t => fieldUpdate f t v := by
  intro t b hb
  rw [Field.smask_getLsbD] at hb
  rw [fieldUpdate_getLsbD, if_neg]
  simpa [and_assoc] using hb

/-- An enable bit after a write of its word or of another: as written, or as before. -/
theorem storedBit_write_enable {r : RegMap} (h : RegMap.wf r = true) {m : Memory} (hm : Memory.wf m = true) {a : Addr}
    (ha : a ∈ namedAddrs r) {v : Word} {src : ClockSource} {on : Bool} (hold : storedBit m (r.en.get src) = on)
    (hv : a = (r.en.get src).addr → v.getLsbD (r.en.get src).bit = on) :
    storedBit (m.write r a v) (r.en.get src) = on := by
  unfold storedBit
  by_cases hsame : a = (r.en.get src).addr
  · subst hsame
    rw [Memory.storage_bit_write _ _ _ _ _ hm (enable_is_storage h src), hv rfl]
  · rw [Memory.word_write_ne _ _ _ _ _ hm (named_aligned h ha) (named_aligned h (enable_named r src)) hsame]
    exact hold

/-! ## What a micro-operation can do -/

/-- What a micro-operation other than END does to `busy` and `upc` (47 R189). -/
theorem MicroCto.busy_upc {i : Instr} {s : State} {c' : Cto} (h : MicroCto i s c') (hi : ∀ m, i ≠ .uEnd m) :
    c'.busy = s.cto.busy ∧ (c'.upc = s.cto.upc ∨ c'.upc = s.cto.upc + 1) := by
  cases h with
  | half v _ hc => exact hc ▸ ⟨rfl, .inl rfl⟩
  | raise f n _ _ _ hc => exact hc ▸ ⟨rfl, .inl rfl⟩
  | poll n _ hc => exact hc ▸ ⟨rfl, .inl rfl⟩
  | done prof bank rdy _ _ _ _ _ hc => exact hc ▸ ⟨rfl, .inr rfl⟩
  | fin m hm hc => exact absurd hm (hi m)

/-- The word that a micro-operation standing before PLL_CONFIGURE writes, and the bits of it that it can change. -/
def writtenField (r : RegMap) : Instr → Option (Addr × Word)
  | .oscEnable src _ => some ((r.en.get src).addr, (r.en.get src).smask)
  | .swSelect _ _ => some (r.cfgAddr, r.sw.smask)
  | .vosSetScale _ => some (r.pwrAddr, r.vos.smask)
  | .preSetAhb _ => some (r.cfgAddr, r.hpre.smask)
  | .preSetApb1 _ => some (r.cfgAddr, r.ppre1.smask)
  | .preSetApb2 _ => some (r.cfgAddr, r.ppre2.smask)
  | _ => none

/-- Two entries of an admitted map's list of fields that stand in one word share no bit (00 R9). -/
theorem fields_share_no_bit {r : RegMap} (h : RegMap.wf r = true) {i j : Nat} (hij : i ≠ j) {a : Addr} {v w : Word}
    (hi : (storageFields r ++ statusBits r)[i]? = some (a, v)) (hj : (storageFields r ++ statusBits r)[j]? = some (a, w))
    (b : Nat) : ¬ (v.getLsbD b = true ∧ w.getLsbD b = true) := by
  obtain ⟨-, -, -, -, hapart⟩ := RegMap.wf_parts h
  rcases Nat.lt_or_gt_of_ne hij with hlt | hlt
  · exact apart_bit (allApart_get hapart hlt hi hj) b
  · exact fun hb => apart_bit (allApart_get hapart hlt hj hi) b hb.symm

/-- What a micro-operation that writes the field `x` can do: fault, read the word, or write back the word held with nothing
changed outside the field. -/
inductive FieldStep (s t : State) (x : Addr × Word) : Prop
  | raised (f : FaultCause) : t = raise f s → FieldStep s t x
  | read : s.cto.ph = false → t = rmwRead s x.1 → FieldStep s t x
  | wrote (v : Word) (m : Mark) : s.cto.ph = true →
      (∀ b, x.2.getLsbD b = false → v.getLsbD b = s.cto.held.getLsbD b) →
      t = complete m (afterWrite s x.1 v) → FieldStep s t x

theorem FieldStep.rmw {s : State} {mask : Word} {f : Word → Word} (hf : KeepsOutside mask f) (a : Addr) (m : Mark) :
    FieldStep s (rmw s a f (complete m)) (a, mask) := by
  cases hph : s.cto.ph with
  | false => exact .read hph (rmw_first _ _ _ _ hph)
  | true => exact .wrote _ m hph (hf _) (rmw_second _ _ _ _ hph)

theorem FieldStep.withProfile {s : State} {x : Addr × Word} {k : ClockScaleProfile → State}
    (h : ∀ p, FieldStep s (k p) x) : FieldStep s (withProfile s k) x := by
  cases hprof : s.cto.prof with
  | none => exact .raised .noProfile (withProfile_none s k hprof)
  | some p => exact (withProfile_some s k p hprof).symm ▸ h p

/-- Every micro-operation that writes one field does so. -/
theorem exec_fieldStep {i : Instr} {s t : State} {x : Addr × Word} (hx : writtenField s.params.regs i = some x)
    (hexec : exec i s = .next t) : FieldStep s t x := by
  obtain ⟨u, hu, hfield⟩ : ∃ u, exec i s = .next u ∧ FieldStep s u x := by
    cases i <;> cases hx
    case oscEnable src m => exact ⟨_, exec_oscEnable s src m, .rmw (setBits_keepsOutside _) _ m⟩
    case swSelect src m =>
      refine ⟨_, rfl, ?_⟩
      cases hcode : s.params.codes.sw.get src with
      | none => exact .raised .illegalUop (withSwCode_none hcode _)
      | some c => exact (withSwCode_some hcode _).symm ▸ .rmw (fieldUpdate_keepsOutside _ c) _ m
    case vosSetScale m => exact ⟨_, rfl, .withProfile fun _ => .rmw (fieldUpdate_keepsOutside _ _) _ m⟩
    case preSetAhb m => exact ⟨_, rfl, .withProfile fun _ => .rmw (fieldUpdate_keepsOutside _ _) _ m⟩
    case preSetApb1 m => exact ⟨_, rfl, .withProfile fun _ => .rmw (fieldUpdate_keepsOutside _ _) _ m⟩
    case preSetApb2 m => exact ⟨_, rfl, .withProfile fun _ => .rmw (fieldUpdate_keepsOutside _ _) _ m⟩
  obtain rfl : u = t := Host.Outcome.next.inj (hu.symm.trans hexec)
  exact hfield

/-! ## The words of the sequence before PLL_CONFIGURE -/

/-- A word before PLL_CONFIGURE writes one field, or is a wait, or looks the profile up. -/
theorem romInstr_before_pllConfigure (r : RegMap) {k : Nat} (hk : k < 10) :
    (∃ x, writtenField r (romInstr k) = some x) ∨ (∃ src m, romInstr k = .oscWaitReady src m) ∨
      ∃ m, romInstr k = .profLookup m := by
  match k, hk with
  | 1, _ | 4, _ => exact .inr (.inl ⟨_, _, rfl⟩)
  | 5, _ => exact .inr (.inr ⟨_, rfl⟩)
  | 0, _ | 2, _ | 3, _ | 6, _ | 7, _ | 8, _ | 9, _ => exact .inl ⟨_, rfl⟩

theorem romInstr_pllConfigure : romInstr 10 = .pllConfigure (.enter .pllConfigured) := rfl

section
variable {r : RegMap} {k : Nat} (hk : k < 10) {x : Addr × Word} (hx : writtenField r (romInstr k) = some x)
include hk hx

/-- The words written before PLL_CONFIGURE. -/
theorem romInstr_written_addr : x.1 ∈ [r.en.hsi.addr, r.en.hse.addr, r.pwrAddr, r.cfgAddr] := by
  interval_cases k <;> cases hx <;> simp [PerSource.get]

theorem romInstr_written_named : x.1 ∈ namedAddrs r := by
  have haddr := romInstr_written_addr hk hx
  simp only [List.mem_cons, List.not_mem_nil, or_false] at haddr
  rcases haddr with h | h | h | h <;> rw [h]
  · exact enable_named r .hsi
  · exact enable_named r .hse
  · exact pwr_named r
  · exact cfg_named r

/-- The fields written before PLL_CONFIGURE are fields of the map other than the PLL enable bit, which is its third. -/
theorem romInstr_written_mem : x ∈ (storageFields r ++ statusBits r).eraseIdx 2 := by
  interval_cases k <;> cases hx <;> simp [storageFields, PerSource.toList, PerSource.get]

/-- In an admitted map none of them holds the PLL enable bit (00 R9). -/
theorem romInstr_written_apart (h : RegMap.wf r = true) (ha : x.1 = r.en.pll.addr) :
    x.2.getLsbD r.en.pll.bit = false := by
  obtain ⟨i, hi, hget⟩ := List.mem_eraseIdx_iff_getElem?.1 (romInstr_written_mem hk hx)
  have hpll : r.en.pll.smask.getLsbD r.en.pll.bit = true := by
    simp [BitLoc.smask, show r.en.pll.bit < 32 from enable_bit_lt h .pll]
  refine eq_false_of_ne_true fun hx => fields_share_no_bit h hi ?_ rfl _ ⟨hx, hpll⟩
  rw [hget, ← ha]

end

end Sys2Proof.Machine
end

section
/-! A run that finds the PLL enabled, step by step (spec/47_orchestrator.md R193): it stays at or before PLL_CONFIGURE and
leaves the PLL configuration word. -/

namespace Sys2Proof.Safety

open Sys2Proof.Machine Sys2Proof.Claims

/-! ## Transactions that leave the PLL configuration word -/

/-- From `s` to `t` nothing was written at word 10, nor to the PLL configuration word where its address is none of those
written before word 10. -/
def SparesPll (s t : State) : Prop :=
  ∃ l, t.trace = s.trace ++ l ∧ (∀ x ∈ l, x.upc = 10 → x.we = false) ∧
    (s.params.regs.pllcfgAddr ∉ [s.params.regs.en.hsi.addr, s.params.regs.en.hse.addr, s.params.regs.pwrAddr,
        s.params.regs.cfgAddr] →
      (∀ x ∈ l, x.we = true → x.addr ≠ s.params.regs.pllcfgAddr) ∧
      t.mem.word s.params.regs.pllcfgAddr = s.mem.word s.params.regs.pllcfgAddr)

theorem SparesPll.of_no_transaction {s t : State} (htrace : t.trace = s.trace) (hmem : t.mem = s.mem) : SparesPll s t :=
  ⟨[], by simp [htrace], by simp, fun _ => ⟨by simp, by rw [hmem]⟩⟩

theorem SparesPll.of_oneRead {s t : State} {why : Purpose} {a : Addr} {c : Cto} (h : OneRead s t why a c) :
    SparesPll s t := by
  obtain ⟨-, htrace, hbytes, -⟩ := h
  exact ⟨_, htrace, by simp, fun _ => ⟨by simp, hbytes.word_eq _⟩⟩

/-- A write at another word of the micro-ROM, of one of the four words written there. -/
theorem SparesPll.of_write {s t : State} {a : Addr} {v : Word} (hregs : RegMap.wf s.params.regs = true)
    (hwf : Memory.wf s.mem = true) (hupc : s.cto.upc ≠ 10)
    (ha : a ∈ [s.params.regs.en.hsi.addr, s.params.regs.en.hse.addr, s.params.regs.pwrAddr, s.params.regs.cfgAddr])
    (hnamed : a ∈ namedAddrs s.params.regs)
    (htrace : t.trace = s.trace ++ [⟨s.cto.upc, true, a, v⟩]) (hmem : t.mem = s.mem.write s.params.regs a v) :
    SparesPll s t := by
  refine ⟨_, htrace, by simpa using hupc, fun hown => ?_⟩
  have hne : a ≠ s.params.regs.pllcfgAddr := fun e => hown (e ▸ ha)
  refine ⟨by simpa using hne, ?_⟩
  rw [hmem]
  exact Memory.word_write_ne _ _ _ _ _ hwf (named_aligned hregs hnamed) (named_aligned hregs (pllcfg_named _)) hne

theorem SparesPll.trans {s t u : State} (hst : SparesPll s t) (htu : SparesPll t u) (hparams : t.params = s.params) :
    SparesPll s u := by
  unfold SparesPll at htu
  rw [hparams] at htu
  obtain ⟨l, htrace, hword, hown⟩ := hst
  obtain ⟨l', htrace', hword', hown'⟩ := htu
  refine ⟨l ++ l', by rw [htrace', htrace, List.append_assoc], List.forall_mem_append.2 ⟨hword, hword'⟩, fun hap => ?_⟩
  obtain ⟨haddr, hmem⟩ := hown hap
  obtain ⟨haddr', hmem'⟩ := hown' hap
  exact ⟨List.forall_mem_append.2 ⟨haddr, haddr'⟩, hmem'.trans hmem⟩

/-! ## The run before PLL_CONFIGURE -/

theorem poll_ph {s : State} (hph : s.cto.ph = false) (why : Purpose) (a : Addr) (ok : Word → Bool) (f : FaultCause)
    (m : Mark) : (poll s why a ok f m).cto.ph = false := by
  cases hok : ok (readValue s why a) with
  | true =>
    rw [poll_ok _ _ _ _ _ _ hok]
    rfl
  | false =>
    rw [poll_failed _ _ _ _ _ _ hok, failedPoll_eq_faultedWith]
    split <;> exact hph

/-- A run of the sequencer alone that stands at or before PLL_CONFIGURE with the PLL enable bit set. Between the halves of a
read-modify-write, the word held has the bit set too if it is the bit's word. -/
structure BeforePll (s : State) : Prop where
  alone : Alone s
  busy : s.cto.busy = true
  upc_le : s.cto.upc.toNat ≤ 10
  enabled : storedBit s.mem s.params.regs.en.pll = true
  half : s.cto.ph = true → ∃ x, writtenField s.params.regs (romInstr s.cto.upc.toNat) = some x ∧
    (x.1 = s.params.regs.en.pll.addr → s.cto.held.getLsbD s.params.regs.en.pll.bit = true)

section
variable {s t : State} (h : BeforePll s)
include h

theorem BeforePll.busy_bank (hmicro : MicroStep (romInstr s.cto.upc.toNat) s t) :
    t.cto.busy = true ∧ t.cto.bank = s.cto.bank ∧ (s.cto.upc.toNat < 10 → t.cto.upc.toNat ≤ 10) := by
  have hle := h.upc_le
  obtain ⟨hbusy, hupc⟩ := hmicro.cto.busy_upc fun m hm => by
    have := romInstr_eq_uEnd (by omega) hm
    omega
  refine ⟨hbusy.trans h.busy, hmicro.cto.bank_cases.resolve_right fun ⟨m, hm⟩ => ?_, fun hlt => ?_⟩
  · have := romInstr_eq_freqPublish (by omega) hm
    omega
  · rcases hupc with hupc | hupc
    · rw [hupc]
      exact hle
    · rw [hupc, toNat_upc_succ (by omega)]
      exact hlt

/-- A step with no byte written and no half begun keeps the run before PLL_CONFIGURE. -/
theorem BeforePll.of_no_write (halone : Alone t) (hbusy : t.cto.busy = true) (hupc : t.cto.upc.toNat ≤ 10)
    (hparams : t.params = s.params) (hbytes : SameBytes s t) (hph : t.cto.ph = false) : BeforePll t where
  alone := halone
  busy := hbusy
  upc_le := hupc
  enabled := by
    rw [storedBit, hbytes.word_eq, hparams]
    exact h.enabled
  half hhalf := by simp [hph] at hhalf

/-- No word without a written field stands between two halves. -/
theorem BeforePll.no_half (hnone : writtenField s.params.regs (romInstr s.cto.upc.toNat) = none) : s.cto.ph = false := by
  refine eq_false_of_ne_true fun hph => ?_
  obtain ⟨x, hx, -⟩ := h.half hph
  simp [hnone] at hx

/-- A word that writes a field leaves the PLL enable bit, which it reads and writes back at most. -/
theorem BeforePll.field_step (hregs : RegMap.wf s.params.regs = true) (hk : s.cto.upc.toNat < 10) {x : Addr × Word}
    (hx : writtenField s.params.regs (romInstr s.cto.upc.toNat) = some x) (hfield : FieldStep s t x) (halone : Alone t)
    (hbusy : t.cto.busy = true) (hupc : t.cto.upc.toNat ≤ 10) : BeforePll t ∧ SparesPll s t := by
  cases hfield with
  | raised f ht =>
    subst ht
    exact ⟨⟨halone, hbusy, hupc, h.enabled, h.half⟩, .of_no_transaction rfl rfl⟩
  | read hph ht =>
    subst ht
    refine ⟨⟨halone, hbusy, hupc, h.enabled, fun _ => ⟨x, hx, fun ha => ?_⟩⟩, .of_oneRead (oneRead_rmwRead s x.1)⟩
    rw [rmwRead_held, ha]
    exact (readValue_storage_bit s .plain _ _ (enable_is_storage hregs .pll)).trans h.enabled
  | wrote v m hph hv ht =>
    subst ht
    obtain ⟨y, hy, hheld⟩ := h.half hph
    obtain rfl : x = y := Option.some.inj (hx.symm.trans hy)
    have hnamed := romInstr_written_named hk hx
    have hkept : x.1 = s.params.regs.en.pll.addr → v.getLsbD s.params.regs.en.pll.bit = true := fun ha => by
      rw [hv _ (romInstr_written_apart hk hx hregs ha)]
      exact hheld ha
    have henabled := storedBit_write_enable hregs h.alone.inv.mem hnamed (src := .pll) h.enabled hkept
    refine ⟨⟨halone, hbusy, hupc, henabled, nofun⟩, .of_write hregs h.alone.inv.mem (fun e => ?_)
      (romInstr_written_addr hk hx) hnamed rfl rfl⟩
    simp [e] at hk

/-- A wait is one read, and begins no half. -/
theorem BeforePll.wait_step {src : ClockSource} {m : Mark} (hi : romInstr s.cto.upc.toNat = .oscWaitReady src m)
    (hexec : exec (romInstr s.cto.upc.toNat) s = .next t) (halone : Alone t)
    (hbusy : t.cto.busy = true) (hupc : t.cto.upc.toNat ≤ 10) : BeforePll t ∧ SparesPll s t := by
  have hph := h.no_half (by rw [hi]; rfl)
  rw [hi] at hexec
  obtain rfl := Host.Outcome.next.inj hexec
  have hread := oneRead_poll s (.pollReady src) (s.params.regs.rdy.get src).addr
    (fun v => testBits v (s.params.regs.rdy.get src).smask) (.oscillatorTimeout src) m
  have ⟨_, _, hbytes, ⟨hparams, _⟩, _⟩ := hread
  exact ⟨h.of_no_write halone hbusy hupc hparams hbytes (poll_ph hph ..), .of_oneRead hread⟩

/-- PROF_LOOKUP makes no transaction and begins no half. -/
theorem BeforePll.lookup_step {m : Mark} (hi : romInstr s.cto.upc.toNat = .profLookup m)
    (hexec : exec (romInstr s.cto.upc.toNat) s = .next t) (halone : Alone t)
    (hbusy : t.cto.busy = true) (hupc : t.cto.upc.toNat ≤ 10) : BeforePll t ∧ SparesPll s t := by
  have hph := h.no_half (by rw [hi]; rfl)
  rw [hi] at hexec
  cases hbad : badProfile s.params.codes (selectedProfile s) with
  | true =>
    rw [exec_profLookup_of_bad hbad] at hexec
    cases hexec
    exact ⟨h.of_no_write halone hbusy hupc rfl (fun _ => rfl) hph, .of_no_transaction rfl rfl⟩
  | false =>
    rw [exec_profLookup_of_good hbad] at hexec
    cases hexec
    exact ⟨h.of_no_write halone hbusy hupc rfl (fun _ => rfl) rfl, .of_no_transaction rfl rfl⟩

/-- PLL_CONFIGURE finds the bit set and stays where it is, with one read (42 R143). -/
theorem BeforePll.pllConfigure_step (hregs : RegMap.wf s.params.regs = true) (hk : s.cto.upc.toNat = 10)
    (hexec : exec (romInstr s.cto.upc.toNat) s = .next t) (halone : Alone t)
    (hbusy : t.cto.busy = true) : BeforePll t ∧ SparesPll s t := by
  have hph := h.no_half (by rw [hk, romInstr_pllConfigure]; rfl)
  obtain ⟨p, hp⟩ := Option.isSome_iff_exists.1 (h.alone.rom.latched h.busy (by omega))
  rw [hk, romInstr_pllConfigure, exec_pllConfigure_first hp hph, pllTest_of_set hregs h.enabled] at hexec
  cases hexec
  exact ⟨h.of_no_write halone hbusy h.upc_le rfl (fun _ => rfl) hph,
    .of_oneRead ((oneRead_afterRead s .plain s.params.regs.en.pll.addr).withCto _)⟩

/-- Every step keeps the run at or before PLL_CONFIGURE, and the bank. -/
theorem BeforePll.step (hstep : step s = .next t) :
    BeforePll t ∧ t.cto.bank = s.cto.bank ∧ t.params = s.params ∧ SparesPll s t := by
  rcases h.alone.step_cases hstep with rfl | ⟨hp, -, -, hexec⟩
  · exact ⟨h, rfl, rfl, .of_no_transaction rfl rfl⟩
  · have hregs := paramsWf_regs hp
    have halone := h.alone.next hstep
    have hmicro := h.alone.microStep h.busy hexec
    obtain ⟨hbusy, hbank, hupc⟩ := h.busy_bank hmicro
    suffices hkeeps : BeforePll t ∧ SparesPll s t from ⟨hkeeps.1, hbank, hmicro.params, hkeeps.2⟩
    rcases Nat.lt_or_eq_of_le h.upc_le with hk | hk
    · rcases romInstr_before_pllConfigure s.params.regs hk with ⟨x, hx⟩ | ⟨src, m, hi⟩ | ⟨m, hi⟩
      · exact h.field_step hregs hk hx (exec_fieldStep hx hexec) halone hbusy (hupc hk)
      · exact h.wait_step hi hexec halone hbusy (hupc hk)
      · exact h.lookup_step hi hexec halone hbusy (hupc hk)
    · exact h.pllConfigure_step hregs hk hexec halone hbusy

end

/-- So does a run of any number of steps. -/
theorem BeforePll.run {n : Nat} {s t : State} (h : BeforePll s) (hrun : Host.Core.run core n s = .next t) :
    BeforePll t ∧ t.cto.bank = s.cto.bank ∧ SparesPll s t := by
  induction n generalizing s with
  | zero =>
    cases hrun
    exact ⟨h, rfl, .of_no_transaction rfl rfl⟩
  | succ n ih =>
    obtain ⟨u, hstep, hrest⟩ := run_succ_inv hrun
    obtain ⟨hu, hbank, hparams, hspares⟩ := h.step hstep
    obtain ⟨ht, hbank', hspares'⟩ := ih hu hrest
    exact ⟨ht, hbank'.trans hbank, hspares.trans hspares' hparams⟩

end Sys2Proof.Safety

namespace Sys2Proof.Claims

open Sys2Proof Sys2Proof.Machine Sys2Proof.Safety

/-- Settles O56: no word before PLL_CONFIGURE clears the bit, and PLL_CONFIGURE faults on it. -/
theorem pllEnabledRunNeverPublishes : Obligations.PllEnabledRunNeverPublishes := by
  unfold Obligations.PllEnabledRunNeverPublishes
  intro n s t hinv hrom hagenda hbusy hupc hph henabled hrun
  have hstart : BeforePll s := ⟨⟨hinv, hrom, hagenda⟩, hbusy, by simp [hupc], henabled, fun hhalf => by simp [hph] at hhalf⟩
  obtain ⟨ht, hbank, hspares⟩ := hstart.run hrun
  have hdone : t.cto.done = false := eq_false_of_ne_true fun hd => by
    have := ht.busy
    simp [ht.alone.inv.cto.done_idle hd] at this
  exact ⟨hbank, ht.busy, hdone, ht.upc_le, hspares⟩

end Sys2Proof.Claims
end

section
/-! A nominal run of the fixed micro-ROM, word by word (spec/47_orchestrator.md R191, spec/20_memory.md R70). -/

namespace Sys2Proof.Machine

/-! ## What EnvNominal shows in the switch status (20 R70) -/

/-- No ready bit stands in the switch status. -/
theorem readyWord_switch {r : RegMap} (h : RegMap.wf r = true) (rdy : ClockSource → Bool) {i : Nat}
    (hi : r.sws.smask.getLsbD i = true) : (readyWord r r.cfgAddr rdy).getLsbD i = false := by
  refine eq_false_of_ne_true fun hset => ?_
  obtain ⟨src, haddr, -, hbit⟩ := (readyWord_getLsbD ..).1 hset
  exact ready_switch_apart h src haddr i ⟨hbit, hi⟩

/-- The switch status shows the source-select field, truncated to the status field's width (log entry 30). -/
theorem nominal_switch {s : State} (h : RegMap.wf s.params.regs = true) (he : s.env = .nominal) (why : Purpose) :
    s.params.regs.sws.get (readValue s why s.params.regs.cfgAddr) =
      s.params.regs.sw.get (s.mem.word s.params.regs.cfgAddr) &&& s.params.regs.sws.mask := by
  rw [← Field.get_place (field_fits h (by simp))]
  refine Field.get_congr fun i hi => ?_
  rw [readValue_status_bit _ _ _ _ (switchStatus_is_status hi)]
  simp [envAnswer, he, followingAnswer, readyWord_switch h _ hi, switchWord]

/-- SW_WAIT completes at a poll that shows the source's code (46 R172). -/
theorem exec_swWait_of_shown {s : State} {src : ClockSource} {c : Word} (hcode : s.params.codes.sw.get src = some c)
    (hshown : s.params.regs.sws.get (readValue s .pollSwitch s.params.regs.cfgAddr) = c &&& s.params.regs.sws.mask)
    (m : Mark) :
    exec (.swWait src m) s = .next (complete m (afterRead s .pollSwitch s.params.regs.cfgAddr)) :=
  (exec_swWait hcode m).trans (congrArg _ (poll_ok _ _ _ _ _ _ (beq_iff_eq.2 hshown)))

/-! ## Steps and runs -/

/-- A run of one more step, taken last. -/
theorem run_snoc {n : Nat} {s t u : State} (h : Host.Core.run core n s = .next t) (hstep : step t = .next u) :
    Host.Core.run core (n + 1) s = .next u := by
  induction n generalizing s with
  | zero =>
    cases h
    exact run_succ 0 hstep
  | succ n ih =>
    obtain ⟨r, hr, hrest⟩ := run_succ_inv h
    rw [run_succ _ hr]
    exact ih hrest

end Sys2Proof.Machine

namespace Sys2Proof.Claims

open Sys2Proof.Machine

theorem updated_keepsOutside (f : Field) (v : Word) : KeepsOutside f.smask (updated f v) := by
  intro t b hb
  rw [← fieldUpdate_eq_updated]
  exact fieldUpdate_keepsOutside f v t b hb

/-- A read-modify-write whose word function keeps an enable bit where the two share a word keeps it as it is stored. -/
theorem ReadThenWrite.storedBit_eq {i : Instr} {s u : State} {a : Addr} {f : Word → Word} {m : Mark}
    (h : ReadThenWrite i s u a f m) (hregs : RegMap.wf s.params.regs = true) (hnamed : a ∈ namedAddrs s.params.regs)
    (src : ClockSource) (hf : a = (s.params.regs.en.get src).addr →
      ∀ t, (f t).getLsbD (s.params.regs.en.get src).bit = t.getLsbD (s.params.regs.en.get src).bit) :
    storedBit u.mem (s.params.regs.en.get src) = storedBit s.mem (s.params.regs.en.get src) := by
  unfold storedBit
  by_cases hsame : a = (s.params.regs.en.get src).addr
  · rw [← hsame]
    exact h.kept_bit (hf hsame)
  · obtain ⟨t, -, ⟨-, -, hbytes, -⟩, -, ⟨-, -, -, -, hout, -⟩⟩ := h
    have ha := named_aligned hregs hnamed
    have hb := named_aligned hregs (enable_named s.params.regs src)
    have hne : a.toNat ≠ (s.params.regs.en.get src).addr.toNat := fun e => hsame (BitVec.eq_of_toNat_eq e)
    simp only [addrOk, beq_iff_eq] at ha hb
    rw [← hbytes.word_eq]
    unfold Memory.word
    rw [hout _ (by omega), hout _ (by omega), hout _ (by omega), hout _ (by omega)]

end Sys2Proof.Claims

namespace Sys2Proof.Safety

open Sys2Proof.Machine Sys2Proof.Claims

/-- With the fixed micro-ROM the sequencer alone runs the sequence's word at `upc`. -/
theorem step_of_rom {s : State} (hp : paramsWf s.params = true) (ha : s.agenda = []) (hurom : s.urom = rom)
    (hsw : s.params.codes.sw.hsi.isSome = true ∧ s.params.codes.sw.pll.isSome = true) (hbusy : s.cto.busy = true)
    (hfault : s.cto.fault = false) (hupc : s.cto.upc.toNat ≤ 18) : step s = exec (romInstr s.cto.upc.toNat) s := by
  rw [step_of_agenda_nil hp ha]
  refine sequencerTurn_of_ok hbusy hfault ?_
  rw [fetch, hurom]
  exact decodeU_rom hsw.1 hsw.2 hupc

/-! ## The words of a nominal run -/

/-- After `n` steps and `j` transactions from `s₀` the nominal run stands before word `k`: nothing of its surroundings has
changed, the selected entry is latched from word 6 on, the bank is published from word 17 on, and the PLL is off up to
word 10. -/
structure AtWord (s₀ : State) (k n j : Nat) (s : State) : Prop where
  reached : Host.Core.run core n s₀ = .next s
  trace : s.trace.length = s₀.trace.length + j
  sound : Sound s
  agenda : s.agenda = []
  env : s.env = .nominal
  urom : s.urom = rom
  params : s.params = s₀.params
  busy : s.cto.busy = true
  fault : s.cto.fault = false
  ph : s.cto.ph = false
  upc : s.cto.upc.toNat = k
  operands : s.cto.crystal = s₀.cto.crystal ∧ s.cto.target = s₀.cto.target
  latched : 5 < k → s.cto.prof = some (selectedProfile s₀)
  published : 16 < k → s.cto.bank = publishedBank s₀.params s₀.cto.crystalCode (selectedProfile s₀)
  pllOff : k ≤ 10 → storedBit s.mem s.params.regs.en.pll = false

section
variable {s₀ s : State} {k n j : Nat} (h : AtWord s₀ k n j s)
include h

/-- Completing a word, with what it latches, publishes and leaves of the PLL enable bit, the run stands before the next. -/
theorem AtWord.next {u : State} {d e : Nat} {prof : Option ClockScaleProfile} {bank : Bank} {m : Mark} (hk : k < 18)
    (hreached : Host.Core.run core (n + d) s₀ = .next u)
    (hcto : u.cto = Cto.complete { s.cto with prof := prof, bank := bank } m) (hparams : u.params = s.params)
    (hurom : u.urom = s.urom) (hagenda : u.agenda = s.agenda) (henv : u.env = s.env) (hmem : Memory.wf u.mem = true)
    (htrace : u.trace.length = s.trace.length + e) (hlatched : 5 ≤ k → prof = some (selectedProfile s₀))
    (hpublished : 16 ≤ k → bank = publishedBank s₀.params s₀.cto.crystalCode (selectedProfile s₀))
    (hpll : k < 10 → storedBit u.mem s.params.regs.en.pll = false) : AtWord s₀ (k + 1) (n + d) (j + e) u where
  reached := hreached
  trace := by rw [htrace, h.trace, Nat.add_assoc]
  sound := ⟨hmem, hparams ▸ h.sound.2⟩
  agenda := hagenda.trans h.agenda
  env := henv.trans h.env
  urom := hurom.trans h.urom
  params := hparams.trans h.params
  busy := hcto ▸ h.busy
  fault := hcto ▸ h.fault
  ph := hcto ▸ rfl
  upc := by
    rw [hcto, Cto.complete_upc, toNat_upc_succ (k := s.cto.upc) (by rw [h.upc]; omega), h.upc]
  operands := hcto ▸ h.operands
  latched hlt := by
    rw [hcto]
    exact hlatched (by omega)
  published hlt := by
    rw [hcto]
    exact hpublished (by omega)
  pllOff hle := by
    rw [hparams]
    exact hpll (by omega)

theorem AtWord.crystalCode : s.cto.crystalCode = s₀.cto.crystalCode := by
  rw [Cto.crystalCode, h.operands.1, Cto.crystalCode]

theorem AtWord.selected : selectedProfile s = selectedProfile s₀ := by
  rw [selectedProfile, h.params, h.crystalCode, Cto.targetCode, h.operands.2]
  rfl

variable (hsw : s₀.params.codes.sw.hsi.isSome = true ∧ s₀.params.codes.sw.pll.isSome = true)
include hsw

/-- The step from a word runs it. -/
theorem AtWord.step (hk : k ≤ 18) : step s = exec (romInstr k) s := by
  have hstep := step_of_rom h.sound.2 h.agenda h.urom (h.params ▸ hsw) h.busy h.fault (h.upc.symm ▸ hk)
  rwa [h.upc] at hstep

/-- A word of two transactions, which latches and publishes nothing. -/
theorem AtWord.two_steps (hk : k < 18) (hk5 : k ≠ 5) (hk16 : k ≠ 16) {t u : State} {a a' : Addr} {v : Word} {m : Mark}
    (ht : exec (romInstr k) s = .next t) (hread : OneRead s t .plain a (betweenHalves s a))
    (hu : exec (romInstr k) t = .next u) (hwrite : OneWrite t u a' v (Claims.completed s.cto m))
    (hpll : k < 10 → storedBit u.mem s.params.regs.en.pll = storedBit s.mem s.params.regs.en.pll) :
    AtWord s₀ (k + 1) (n + 2) (j + 2) u := by
  have hformat := romInstr_format (by omega : k ≤ 18)
  have hmem := (exec_micro hformat hu).mem ((exec_micro hformat ht).mem h.sound.1)
  obtain ⟨hctoT, htraceT, -, ⟨hparamsT, huromT, hagendaT, -⟩, -, henvT⟩ := hread
  obtain ⟨hctoU, htraceU, -, -, -, ⟨hparamsU, huromU, hagendaU, -⟩, -, henvU⟩ := hwrite
  have hupcT : t.cto.upc.toNat = k := by rw [hctoT]; exact h.upc
  have hstepT := step_of_rom (hparamsT ▸ h.sound.2) (hagendaT.trans h.agenda) (huromT.trans h.urom)
    (hparamsT ▸ h.params ▸ hsw) (hctoT ▸ h.busy) (hctoT ▸ h.fault) (by omega)
  rw [hupcT] at hstepT
  have hreached := run_snoc (run_snoc h.reached ((h.step hsw (by omega)).trans ht)) (hstepT.trans hu)
  rw [← complete_eq_completed] at hctoU
  refine h.next hk hreached hctoU (hparamsU.trans hparamsT) (huromU.trans huromT) (hagendaU.trans hagendaT) ?_ hmem ?_
    (fun h5 => h.latched (by omega)) (fun h16 => h.published (by omega)) (fun h10 => ?_)
  · rw [henvU, henvT, h.env]
    rfl
  · simp [htraceU, htraceT]
  · rw [hpll h10]
    exact h.pllOff (by omega)

/-- A word before PLL_CONFIGURE that writes one field. -/
theorem AtWord.field (hk : k < 10) {u : State} {a : Addr} {mask : Word} {f : Word → Word} {m : Mark}
    (hx : writtenField s.params.regs (romInstr k) = some (a, mask)) (hrw : ReadThenWrite (romInstr k) s u a f m)
    (hf : KeepsOutside mask f) : AtWord s₀ (k + 1) (n + 2) (j + 2) u := by
  have hregs := paramsWf_regs h.sound.2
  have hkept := hrw.storedBit_eq hregs (romInstr_written_named hk hx) .pll
    fun ha t => hf t _ (romInstr_written_apart hk hx hregs ha)
  obtain ⟨t, ht, hread, hu, hwrite⟩ := hrw
  refine h.two_steps hsw (by omega) ?_ (by omega) ht hread hu hwrite fun _ => hkept
  rintro rfl
  cases hx

/-- A wait that succeeds at its first poll. -/
theorem AtWord.one_poll (hk : k < 16) (hk5 : k ≠ 5) {why : Purpose} {a : Addr} {m : Mark}
    (hexec : exec (romInstr k) s = .next (complete m (afterRead s why a))) :
    AtWord s₀ (k + 1) (n + 1) (j + 1) (complete m (afterRead s why a)) := by
  refine h.next (by omega) (run_snoc h.reached ((h.step hsw (by omega)).trans hexec)) rfl rfl rfl rfl ?_ h.sound.1
    (by simp) (fun h5 => h.latched (by omega)) (fun h16 => h.published (by omega)) (fun h10 => h.pllOff (by omega))
  rw [complete_env, afterRead_env, h.env]
  rfl

/-- A word without a transaction. -/
theorem AtWord.silent (hk : k < 18) {prof : Option ClockScaleProfile} {bank : Bank} {m : Mark}
    (hexec : exec (romInstr k) s = .next { s with cto := Cto.complete { s.cto with prof := prof, bank := bank } m })
    (hlatched : 5 ≤ k → prof = some (selectedProfile s₀))
    (hpublished : 16 ≤ k → bank = publishedBank s₀.params s₀.cto.crystalCode (selectedProfile s₀)) :
    AtWord s₀ (k + 1) (n + 1) j { s with cto := Cto.complete { s.cto with prof := prof, bank := bank } m } :=
  h.next (e := 0) hk (run_snoc h.reached ((h.step hsw (by omega)).trans hexec)) rfl rfl rfl rfl rfl h.sound.1 rfl hlatched
    hpublished fun h10 => h.pllOff (by omega)

/-- An oscillator that is enabled and awaited: two transactions, and a poll that reads the bit just set. -/
theorem AtWord.start_oscillator {src : ClockSource} {m m' : Mark} (hk : k + 1 < 16)
    (hen : romInstr k = .oscEnable src m) (hwait : romInstr (k + 1) = .oscWaitReady src m') :
    ∃ u, AtWord s₀ (k + 2) (n + 3) (j + 3) u := by
  obtain ⟨t, hrw, hbit, -⟩ := oscEnableSetsTheEnableBit s src m h.sound h.ph
  rw [← hen] at hrw
  have ht : AtWord s₀ (k + 1) (n + 2) (j + 2) t := by
    by_cases h10 : k < 10
    · exact h.field hsw h10 (by rw [hen]; rfl) hrw (setBits_keepsOutside _)
    · obtain ⟨r, hr, hread, ht, hwrite⟩ := hrw
      exact h.two_steps hsw (by omega) (by omega) (by omega) hr hread ht hwrite fun hlt => absurd hlt h10
  have hset : storedBit t.mem (t.params.regs.en.get src) = true := by
    rw [ht.params, ← h.params]
    exact hbit
  have hready := (nominal_ready (paramsWf_regs ht.sound.2) ht.env (.pollReady src) src).trans hset
  refine ⟨_, ht.one_poll hsw (by omega) ?_ (hwait ▸ exec_oscWaitReady_of_ready (paramsWf_regs ht.sound.2) hready m')⟩
  rintro h5
  rw [h5, romInstr_lookup] at hwait
  cases hwait

end

/-! ## The nominal run in three parts -/

section
variable {s₀ s : State} {n j : Nat} (hsw : s₀.params.codes.sw.hsi.isSome = true ∧ s₀.params.codes.sw.pll.isSome = true)
include hsw

/-- Words 0 to 5: both oscillators are started, HSI is selected, the profile is latched. -/
theorem AtWord.to_latched (h : AtWord s₀ 0 n j s) (hgood : badProfile s₀.params.codes (selectedProfile s₀) = false) :
    ∃ u, AtWord s₀ 6 (n + 9) (j + 8) u := by
  obtain ⟨s₂, h₂⟩ := h.start_oscillator hsw (by omega) rfl rfl
  obtain ⟨c, hcode⟩ := Option.isSome_iff_exists.1 (h₂.params ▸ hsw.1)
  obtain ⟨s₃, hselect, -⟩ := swSelectWritesTheSelectField s₂ .hsi (.enter .hsiSelected) c h₂.sound h₂.ph hcode
  have h₃ := h₂.field hsw (by omega) rfl hselect (updated_keepsOutside _ _)
  obtain ⟨s₅, h₅⟩ := h₃.start_oscillator hsw (by omega) rfl rfl
  have hlookup := exec_profLookup_of_good (s := s₅) (by rw [h₅.selected, h₅.params]; exact hgood) .keep
  exact ⟨_, h₅.silent hsw (by omega) hlookup (fun _ => by rw [h₅.selected]) (by omega)⟩

/-- Words 6 to 10: voltage, prescalers, PLL configuration. -/
theorem AtWord.to_pllConfigured (h : AtWord s₀ 6 n j s) : ∃ u, AtWord s₀ 11 (n + 10) (j + 10) u := by
  obtain ⟨s₇, hvos, -⟩ := vosSetScaleWritesTheRange s (.enter .voltageConfigured) _ h.sound h.ph (h.latched (by omega))
  have h₇ := h.field hsw (by omega) rfl hvos (updated_keepsOutside _ _)
  obtain ⟨⟨s₈, hahb, -⟩, -⟩ := prescalersWriteTheirFields s₇ .keep _ h₇.sound h₇.ph (h₇.latched (by omega))
  have h₈ := h₇.field hsw (by omega) rfl hahb (updated_keepsOutside _ _)
  obtain ⟨-, ⟨s₉, hapb1, -⟩, -⟩ := prescalersWriteTheirFields s₈ .keep _ h₈.sound h₈.ph (h₈.latched (by omega))
  have h₉ := h₈.field hsw (by omega) rfl hapb1 (updated_keepsOutside _ _)
  obtain ⟨-, -, s₁₀, hapb2, -⟩ :=
    prescalersWriteTheirFields s₉ (.enter .prescalersConfigured) _ h₉.sound h₉.ph (h₉.latched (by omega))
  have h₁₀ := h₉.field hsw (by omega) rfl hapb2 (updated_keepsOutside _ _)
  obtain ⟨t, s₁₁, hfirst, hread, hsecond, hwrite⟩ := pllConfigureWritesTheWordOnce s₁₀ (.enter .pllConfigured) _ h₁₀.sound
    h₁₀.ph (h₁₀.latched (by omega)) (h₁₀.pllOff (by omega))
  exact ⟨_, h₁₀.two_steps hsw (by omega) (by omega) (by omega) hfirst hread hsecond hwrite (by omega)⟩

/-- Words 11 to 16: the PLL is started and selected, the frequencies are published. -/
theorem AtWord.to_published (h : AtWord s₀ 11 n j s) {c : Word} (hc : s₀.params.codes.sw.pll = some c)
    (hfits : c &&& s₀.params.regs.sw.mask = c) : ∃ u, AtWord s₀ 17 (n + 9) (j + 8) u := by
  obtain ⟨s₁₃, h₁₃⟩ := h.start_oscillator hsw (by omega) rfl rfl
  obtain ⟨s₁₄, ⟨t, hfirst, hread, hsecond, hwrite⟩, -⟩ := flashSetWsWritesTogether s₁₃ true true (.enter .flashConfigured) _
    h₁₃.sound h₁₃.ph (h₁₃.latched (by omega))
  have h₁₄ := h₁₃.two_steps hsw (by omega) (by omega) (by omega) hfirst hread hsecond hwrite (by omega)
  have hcode : s₁₄.params.codes.sw.get .pll = some c := by rw [h₁₄.params]; exact hc
  obtain ⟨s₁₅, ⟨t', hfirst', hread', hsecond', hwrite'⟩, hfield, -⟩ :=
    swSelectWritesTheSelectField s₁₄ .pll .keep c h₁₄.sound h₁₄.ph hcode
  have h₁₅ := h₁₄.two_steps hsw (by omega) (by omega) (by omega) hfirst' hread' hsecond' hwrite' (by omega)
  rw [h₁₄.params] at hcode hfield
  rw [hfits, ← h₁₅.params] at hfield
  rw [← h₁₅.params] at hcode
  have hshown := nominal_switch (paramsWf_regs h₁₅.sound.2) h₁₅.env .pollSwitch
  rw [hfield] at hshown
  have h₁₆ := h₁₅.one_poll hsw (by omega) (by omega) (exec_swWait_of_shown hcode hshown (.enter .pllSelected))
  have hpublish := exec_freqPublish (h₁₆.latched (by omega)) (.enter .frequenciesPublished)
  refine ⟨_, h₁₆.silent hsw (by omega) hpublish (fun _ => h₁₆.latched (by omega)) fun _ => ?_⟩
  rw [h₁₆.params, h₁₆.crystalCode]

/-- Words 17 and 18: HSI is switched off, the run ends. -/
theorem AtWord.to_end (h : AtWord s₀ 17 n j s) :
    ∃ t, Host.Core.run core (n + 3) s₀ = .next t ∧ t.cto.done = true ∧ t.cto.busy = false ∧ t.cto.fault = false ∧
      t.cto.upc = 0 ∧ t.cto.state = .hsiDisabled ∧ t.cto.prof = some (selectedProfile s₀) ∧
      t.cto.bank = publishedBank s₀.params s₀.cto.crystalCode (selectedProfile s₀) ∧
      t.trace.length = s₀.trace.length + (j + 2) := by
  obtain ⟨u, ⟨t, hfirst, hread, hsecond, hwrite⟩, -⟩ :=
    oscDisableClearsTheEnableBit s .hsi (.enter .hsiDisabled) h.sound h.ph
  have hu := h.two_steps hsw (by omega) (by omega) (by omega) hfirst hread hsecond hwrite (by omega)
  have hstate : u.cto.state = .hsiDisabled := by rw [hwrite.1]; rfl
  have hend : Machine.step u = .next { u with cto := u.cto.finish .keep } := hu.step hsw (by omega)
  exact ⟨_, run_snoc hu.reached hend, rfl, rfl, hu.fault, rfl, hstate, hu.latched (by omega), hu.published (by omega),
    hu.trace⟩

end

end Sys2Proof.Safety

namespace Sys2Proof.Claims

open Sys2Proof Sys2Proof.Machine Sys2Proof.Safety

/-- Settles O55: word by word, with the steps and transactions of each counted. -/
theorem nominalRunCompletes : Obligations.NominalRunCompletes := by
  unfold Obligations.NominalRunCompletes
  intro s c hsound hagenda henv hurom hbusy hfault hupc hph hgood hhsi hpll hfits hoff
  have hsw : s.params.codes.sw.hsi.isSome = true ∧ s.params.codes.sw.pll.isSome = true := ⟨hhsi, by simp [hpll]⟩
  have h₀ : AtWord s 0 0 0 s :=
    { reached := rfl, trace := rfl, sound := hsound, agenda := hagenda, env := henv, urom := hurom, params := rfl,
      busy := hbusy, fault := hfault, ph := hph, upc := by simp [hupc], operands := ⟨rfl, rfl⟩, latched := nofun,
      published := nofun, pllOff := fun _ => hoff }
  obtain ⟨s₆, h₆⟩ := h₀.to_latched hsw hgood
  obtain ⟨s₁₁, h₁₁⟩ := h₆.to_pllConfigured hsw
  obtain ⟨s₁₇, h₁₇⟩ := h₁₁.to_published hsw hpll hfits
  exact h₁₇.to_end hsw

end Sys2Proof.Claims
end

section
/-! Proofs for the family of spec/48_host.md: the commands, the words the host reads, and the accesses without an
instruction. -/

namespace Sys2Proof.Machine

/-! ## Bits of appended fields -/

theorem getLsbD_append_of_le {v w i : Nat} (x : BitVec v) (y : BitVec w) (h : w ≤ i) :
    (x ++ y).getLsbD i = x.getLsbD (i - w) := by
  rw [BitVec.getLsbD_append, if_neg (by omega)]

theorem getLsbD_append_ofBool {v : Nat} (x : BitVec v) (b : Bool) : (x ++ BitVec.ofBool b).getLsbD 0 = b := by
  rw [BitVec.getLsbD_append, if_pos (by decide)]
  cases b <;> rfl

/-! ## The words the host reads -/

/-- The fields of STATUS: each stands above those listed before it (10 R42). -/
theorem statusWord_fields (c : Cto) :
    (statusWord c).extractLsb' 0 4 = c.state.code ∧ (statusWord c).getLsbD 4 = c.busy ∧
    (statusWord c).getLsbD 5 = c.done ∧ (statusWord c).getLsbD 6 = c.fault ∧ (statusWord c).getLsbD 7 = c.rdy ∧
    (statusWord c).extractLsb' 8 4 = c.faultCode ∧ (statusWord c).extractLsb' 12 3 = c.faultSrc ∧
    (statusWord c).getLsbD 15 = false ∧ (statusWord c).extractLsb' 16 5 = c.upc ∧
    (statusWord c).extractLsb' 21 3 = 0 ∧ (statusWord c).extractLsb' 24 2 = c.cmderr ∧
    (statusWord c).extractLsb' 26 6 = 0 := by
  unfold statusWord
  refine ⟨?state, ?busy, ?done, ?fault, ?rdy, ?faultCode, ?faultSrc, ?gap15, ?upc, ?gap21, ?cmderr, ?gap26⟩
  case state => exact BitVec.extractLsb'_append_eq_right
  case busy | done | fault | rdy =>
    repeat rw [getLsbD_append_of_le _ _ (by decide)]
    exact getLsbD_append_ofBool _ _
  case gap15 =>
    repeat rw [getLsbD_append_of_le _ _ (by decide)]
    exact getLsbD_append_ofBool _ false
  case faultCode | faultSrc | upc | gap21 | cmderr =>
    repeat rw [BitVec.extractLsb'_append_eq_of_le (by decide)]
    exact BitVec.extractLsb'_append_eq_right
  case gap26 =>
    repeat rw [BitVec.extractLsb'_append_eq_of_le (by decide)]
    rfl

/-- The fields of ARGS once operands are latched (10 R43). -/
theorem argsWord_fields {c : Cto} (h : c.argsValid = true) :
    (argsWord c).extractLsb' 0 8 = c.crystalCode ∧ (argsWord c).extractLsb' 8 8 = c.targetCode ∧
    (argsWord c).extractLsb' 16 15 = 0 ∧ (argsWord c).getLsbD 31 = true := by
  rw [argsWord, if_pos h]
  refine ⟨?crystal, ?target, ?gap, ?valid⟩
  case crystal => exact BitVec.extractLsb'_append_eq_right
  case target | gap =>
    repeat rw [BitVec.extractLsb'_append_eq_of_le (by decide)]
    exact BitVec.extractLsb'_append_eq_right
  case valid =>
    repeat rw [getLsbD_append_of_le _ _ (by decide)]
    rfl

theorem argsWord_of_not_valid {c : Cto} (h : c.argsValid = false) : argsWord c = 0 :=
  if_neg (ne_true_of_eq_false h)

/-! ## Commands by opcode (30 R97) -/

theorem decodeH_of_opc_zero {w : Word} (h : w.extractLsb' 0 4 = 0) : decodeH w = .nop := by
  rw [decodeH, h]
  rfl

theorem decodeH_of_opc_one {w : Word} (h : w.extractLsb' 0 4 = 1) :
    decodeH w = .configure (w.extractLsb' 8 8) (w.extractLsb' 16 8) (w.extractLsb' 4 4) (w.extractLsb' 24 8) := by
  rw [decodeH, h]
  rfl

/-- The fourteen reserved command opcodes. -/
def reservedCommands : List Instr :=
  [.cmdReserved2, .cmdReserved3, .cmdReserved4, .cmdReserved5, .cmdReserved6, .cmdReserved7, .cmdReserved8, .cmdReserved9,
   .cmdReserved10, .cmdReserved11, .cmdReserved12, .cmdReserved13, .cmdReserved14, .cmdReserved15]

theorem decodeH_mem_reserved {w : Word} (h : 2 ≤ (w.extractLsb' 0 4).toNat) : decodeH w ∈ reservedCommands := by
  unfold decodeH
  split
  case h_1 hopc | h_2 hopc => omega
  all_goals simp [reservedCommands]

/-- Every reserved command is rejected with BadOpcode, whatever the state (48 R203). -/
theorem exec_reserved {i : Instr} (hi : i ∈ reservedCommands) (s : State) :
    exec i s = .next { s with cto := { s.cto with cmderr := 2 } } := by
  simp only [reservedCommands, List.mem_cons, List.not_mem_nil, or_false] at hi
  rcases hi with rfl | rfl | rfl | rfl | rfl | rfl | rfl | rfl | rfl | rfl | rfl | rfl | rfl | rfl <;> rfl

/-- CONFIGURE refuses reserved bits and operands outside the enumerations (48 R202). -/
theorem badConfigureArgs_eq_true_iff {q : Params} {c g : BitVec 8} {lo : BitVec 4} {hi : BitVec 8} :
    badConfigureArgs q c g lo hi = true ↔ lo ≠ 0 ∨ hi ≠ 0 ∨ q.ncrystal ≤ c.toNat ∨ q.ntarget ≤ g.toNat := by
  simp [badConfigureArgs, or_assoc]

/-! ## Accesses without an instruction (48 R216) -/

theorem decodeHostRead_of_none {k : Nat} (hk : k < 16) (h : k = 0 ∨ 13 ≤ k) :
    decodeHostRead (BitVec.ofNat 4 k) = .error .readsZero := by
  rcases h with rfl | h
  · rfl
  · interval_cases k <;> rfl

theorem decodeHostWrite_of_none {k : Nat} (hk : k < 16) (h0 : k ≠ 0) (h3 : k ≠ 3) (w : Word) :
    decodeHostWrite (BitVec.ofNat 4 k) w = .error .ignoredWrite := by
  obtain rfl | rfl | h4 : k = 1 ∨ k = 2 ∨ 4 ≤ k := by omega
  · rfl
  · rfl
  · interval_cases k <;> rfl

/-- A read without an instruction returns 0 and changes nothing. -/
theorem hostTurn_of_readsZero {s : State} {a : HostAccess} {e : Encoding}
    (he : hostEncoding s.params.hostBase a = some e) (hd : decode s.params.codes.sw e = .error .readsZero) :
    hostTurn a s = .next (reply s 0) := by
  simp only [hostTurn, he, hd]

/-- A write without an instruction is ignored. -/
theorem hostTurn_of_ignoredWrite {s : State} {a : HostAccess} {e : Encoding}
    (he : hostEncoding s.params.hostBase a = some e) (hd : decode s.params.codes.sw e = .error .ignoredWrite) :
    hostTurn a s = .next s := by
  simp only [hostTurn, he, hd]

end Sys2Proof.Machine

namespace Sys2Proof.Claims

open Sys2Proof Sys2Proof.Machine

/-- Settles O25: NOP is the verdict `accepted`, which is 0. -/
theorem nopClearsTheVerdict : Obligations.NopClearsTheVerdict := by
  unfold Obligations.NopClearsTheVerdict
  exact ⟨fun _ => rfl, fun _ => decodeH_of_opc_zero⟩

/-- Settles O26: the three outcomes are those of the two checks. -/
theorem configureChecksThenAccepts : Obligations.ConfigureChecksThenAccepts := by
  unfold Obligations.ConfigureChecksThenAccepts
  refine ⟨fun s c g lo hi => ?_, fun _ => decodeH_of_opc_one⟩
  simp only [← badConfigureArgs_eq_true_iff, ← Bool.or_eq_true]
  refine congrArg Host.Outcome.next (?_ : ite _ _ _ = _)
  split
  · rfl
  · split <;> rfl

/-- Settles O27: every opcode from 2 on decodes to one of the fourteen. -/
theorem reservedOpcodesAreRejected : Obligations.ReservedOpcodesAreRejected := by
  unfold Obligations.ReservedOpcodesAreRejected
  exact ⟨fun s i hi => exec_reserved hi s, fun s w hw => exec_reserved (decodeH_mem_reserved hw) s⟩

/-- Settles O28: each accessor is a host read of its register. -/
theorem accessorsReturnTheBank : Obligations.AccessorsReturnTheBank := by
  unfold Obligations.AccessorsReturnTheBank
  intro s x hx
  simp only [List.mem_cons, List.not_mem_nil, or_false] at hx
  rcases hx with rfl | rfl | rfl | rfl | rfl | rfl | rfl | rfl | rfl <;> exact ⟨_, rfl, rfl⟩

/-- Settles O29: the word read is STATUS of the state of the read. -/
theorem statusShowsTheFlags : Obligations.StatusShowsTheFlags := by
  unfold Obligations.StatusShowsTheFlags
  exact fun s => ⟨_, statusWord s.cto, rfl, rfl, statusWord_fields s.cto⟩

/-- Settles O30: the word read is ARGS, 0 until operands are latched. -/
theorem argsShowTheLatches : Obligations.ArgsShowTheLatches := by
  unfold Obligations.ArgsShowTheLatches
  refine fun s => ⟨fun hinvalid => ?_, fun c g hvalid hc hg => ?_⟩
  · rw [← argsWord_of_not_valid hinvalid]
    exact ⟨_, rfl, rfl⟩
  · have hfields := argsWord_fields hvalid
    simp only [Cto.crystalCode, Cto.targetCode, hc, hg, Option.getD_some] at hfields
    exact ⟨_, argsWord s.cto, rfl, rfl, hfields⟩

/-- Settles O31: the write is a change of POLL_LIMIT alone, the read a host read of it. -/
theorem pollLimitReadsAndWrites : Obligations.PollLimitReadsAndWrites := by
  unfold Obligations.PollLimitReadsAndWrites
  exact fun s w => ⟨rfl, _, rfl, rfl⟩

/-- Settles O32: the port's decoder has no instruction for these accesses, and answers by name. -/
theorem otherHostAccessesDoNothing : Obligations.OtherHostAccessesDoNothing := by
  unfold Obligations.OtherHostAccessesDoNothing
  intro s rest k w hp hk
  refine ⟨fun hnone ha => ?_, fun h0 h3 ha => ?_⟩
  · rw [step_of_agenda_cons hp ha]
    exact hostTurn_of_readsZero (hostEncoding_of_register hk rfl rfl) (decodeHostRead_of_none hk hnone)
  · rw [step_of_agenda_cons hp ha]
    exact hostTurn_of_ignoredWrite (hostEncoding_of_register hk rfl rfl) (decodeHostWrite_of_none hk h0 h3 w)

end Sys2Proof.Claims
end

section
/-! Proofs for the family of spec/60_exceptions.md: the faults of each micro-operation, and the wait for an oscillator that
never gets ready. -/

namespace Sys2Proof.Machine

open Sys2Proof.Claims

/-! ## The faults of the shared shapes (60 R222) -/

/-- The fault recorded is `f`. -/
def Records (c : Cto) (f : FaultCause) : Prop := c.faultCode = f.code ∧ c.faultSrc = f.source

theorem rmw_fault (s : State) (a : Addr) (f : Word → Word) (m : Mark) :
    (rmw s a f (complete m)).cto.fault = s.cto.fault := by
  cases hph : s.cto.ph with
  | false => rw [rmw_first _ _ _ _ hph, rmwRead_cto_fault]
  | true => rw [rmw_second _ _ _ _ hph, complete_cto, Cto.complete_fault, afterWrite_cto]

section
variable {s : State} (hclear : s.cto.fault = false)
include hclear

/-- A poll raises its own fault, and only with a limit. -/
theorem poll_records {why : Purpose} {a : Addr} {ok : Word → Bool} {f : FaultCause} {m : Mark}
    (hfault : (poll s why a ok f m).cto.fault = true) : Records (poll s why a ok f m).cto f ∧ s.cto.limit ≠ 0 := by
  cases hok : ok (readValue s why a) with
  | true =>
    rw [poll_ok _ _ _ _ _ _ hok, complete_cto, Cto.complete_fault, afterRead_cto, hclear] at hfault
    cases hfault
  | false =>
    rw [poll_failed _ _ _ _ _ _ hok] at hfault ⊢
    by_cases hlimit : s.cto.limit ≠ 0 ∧ s.cto.pollcnt + 1 = s.cto.limit
    · rw [Cto.failedPoll_timeout _ _ hlimit]
      exact ⟨⟨rfl, rfl⟩, hlimit.1⟩
    · rw [Cto.failedPoll_again _ _ hlimit] at hfault
      exact absurd hfault (ne_true_of_eq_false hclear)

/-- A reader of the profile latch that raises nothing once a profile is latched raises NoProfile alone. -/
theorem withProfile_records {k : ClockScaleProfile → State} (hk : ∀ p, (k p).cto.fault = s.cto.fault)
    (hfault : (withProfile s k).cto.fault = true) :
    Records (withProfile s k).cto .noProfile ∧ s.cto.prof = none := by
  cases hprof : s.cto.prof with
  | none =>
    rw [withProfile_none s k hprof]
    exact ⟨⟨rfl, rfl⟩, rfl⟩
  | some p =>
    rw [withProfile_some s k p hprof, hk, hclear] at hfault
    cases hfault

/-- The test of PLL_CONFIGURE raises PllRunning alone. -/
theorem pllTest_records (hfault : (pllTest s).cto.fault = true) : Records (pllTest s).cto .pllRunning := by
  cases htest : testBits (readValue s .plain s.params.regs.en.pll.addr) s.params.regs.en.pll.smask with
  | true =>
    have hraised : pllTest s = raise .pllRunning (afterRead s .plain s.params.regs.en.pll.addr) := if_pos htest
    rw [hraised]
    exact ⟨rfl, rfl⟩
  | false =>
    have hread : pllTest s = rmwRead s s.params.regs.en.pll.addr := if_neg (ne_true_of_eq_false htest)
    rw [hread] at hfault
    exact absurd hfault (ne_true_of_eq_false hclear)

end

/-! ## A wait for an oscillator that never gets ready (20 R70, 60 R236) -/

section
variable (s : State) (src : ClockSource)

/-- The transaction every poll of the wait makes under `EnvStuck`. -/
def stuckPoll : Txn :=
  ⟨s.cto.upc, false, (s.params.regs.rdy.get src).addr, readValue s (.pollReady src) (s.params.regs.rdy.get src).addr⟩

/-- The state after `k` failed polls of the wait that have only counted. -/
def afterStuckPolls (k : Nat) : State :=
  { s with
    draws := s.draws + k
    trace := s.trace ++ List.replicate k (stuckPoll s src)
    cto := { s.cto with pollcnt := s.cto.pollcnt + BitVec.ofNat 32 k } }

theorem afterStuckPolls_zero : afterStuckPolls s src 0 = s := by
  simp [afterStuckPolls]

variable {s src} (hp : RegMap.wf s.params.regs = true) (henv : s.env = .stuck src)
include henv

/-- The stuck environment does not look at the count of polls. -/
theorem readValue_afterStuckPolls (k : Nat) (why : Purpose) (a : Addr) :
    readValue (afterStuckPolls s src k) why a = readValue s why a := by
  simp [readValue, envAnswer, afterStuckPolls, henv]

include hp

/-- One more poll is a failed one. -/
theorem exec_oscWaitReady_afterStuckPolls (k : Nat) (m : Mark) :
    exec (.oscWaitReady src m) (afterStuckPolls s src k) =
      .next { afterStuckPolls s src (k + 1) with
        cto := (afterStuckPolls s src k).cto.failedPoll (.oscillatorTimeout src) } := by
  have hstuck := stuck_ready (s := afterStuckPolls s src k) hp henv (.pollReady src)
  refine (exec_oscWaitReady_of_not_ready (s := afterStuckPolls s src k) hp hstuck m).trans ?_
  rw [afterRead, readValue_afterStuckPolls henv]
  simp [afterStuckPolls, stuckPoll, henv, Env.advance, List.replicate_succ', Nat.add_assoc]

/-- Short of the limit it only counts. -/
theorem exec_oscWaitReady_counts {k : Nat} (m : Mark)
    (hlimit : ¬ (s.cto.limit ≠ 0 ∧ s.cto.pollcnt + BitVec.ofNat 32 k + 1 = s.cto.limit)) :
    exec (.oscWaitReady src m) (afterStuckPolls s src k) = .next (afterStuckPolls s src (k + 1)) := by
  rw [exec_oscWaitReady_afterStuckPolls hp henv, Cto.failedPoll_again (afterStuckPolls s src k).cto _ hlimit]
  simp [afterStuckPolls, BitVec.ofNat_add, BitVec.add_assoc]

end

end Sys2Proof.Machine

namespace Sys2Proof.Claims

open Sys2Proof Sys2Proof.Machine

/-! ## Many executions of one instruction -/

/-- One execution more, taken last. -/
theorem execTimes_snoc {i : Instr} {n : Nat} {s t u : State} (h : execTimes i n s t) (hexec : exec i t = .next u) :
    execTimes i (n + 1) s u := by
  induction n generalizing s with
  | zero => exact ⟨u, h ▸ hexec, rfl⟩
  | succ n ih =>
    obtain ⟨r, hr, hrest⟩ := h
    exact ⟨r, hr, ih hrest⟩

section
variable {s : State} {src : ClockSource} (hp : RegMap.wf s.params.regs = true) (henv : s.env = .stuck src) (m : Mark)
  (hcnt : s.cto.pollcnt = 0)
include hp henv hcnt

/-- Short of the limit the polls of a stuck wait only count. -/
theorem execTimes_stuck {k : Nat} (hk : k < s.cto.limit.toNat) :
    execTimes (.oscWaitReady src m) k s (afterStuckPolls s src k) := by
  induction k with
  | zero => exact afterStuckPolls_zero s src
  | succ k ih =>
    refine execTimes_snoc (ih (by omega)) (exec_oscWaitReady_counts hp henv m fun ⟨_, heq⟩ => ?_)
    have hlt := s.cto.limit.isLt
    rw [hcnt, ← BitVec.toNat_inj] at heq
    simp at heq
    omega

/-- The poll whose count reaches the limit raises OscillatorTimeout. -/
theorem exec_oscWaitReady_times_out {k : Nat} (hk : k + 1 = s.cto.limit.toNat) :
    exec (.oscWaitReady src m) (afterStuckPolls s src k) = .next { afterStuckPolls s src (k + 1) with
      cto := faultedWith { s.cto with pollcnt := s.cto.limit } 1 src.code } := by
  have hlimit : s.cto.limit = BitVec.ofNat 32 (k + 1) := by rw [hk]; simp
  have hreach : (afterStuckPolls s src k).cto.pollcnt + 1 = s.cto.limit := by
    rw [hlimit]
    simp [afterStuckPolls, hcnt, BitVec.ofNat_add]
  have hpos : s.cto.limit ≠ 0 := fun h0 => by simp [h0] at hk
  rw [exec_oscWaitReady_afterStuckPolls hp henv,
    Cto.failedPoll_timeout (afterStuckPolls s src k).cto _ ⟨hpos, hreach⟩, hreach]
  rfl

end

/-- Settles O5: the first polls count, and the N-th reaches the limit. -/
theorem oscWaitTimesOutAtTheLimit : Obligations.OscWaitTimesOutAtTheLimit := by
  unfold Obligations.OscWaitTimesOutAtTheLimit
  intro s src m k hp henv hcnt hlimit hk
  have hregs := paramsWf_regs hp
  have hpos : 0 < s.cto.limit.toNat := toNat_pos_of_ne_zero hlimit
  rcases Nat.lt_or_eq_of_le hk with hlt | heq
  · refine ⟨_, execTimes_stuck hregs henv m hcnt hlt, rfl, ?_⟩
    rw [if_neg (Nat.ne_of_lt hlt)]
    simp [afterStuckPolls, hcnt]
  · obtain ⟨j, rfl⟩ := Nat.exists_eq_succ_of_ne_zero (heq ▸ Nat.ne_of_gt hpos)
    refine ⟨_, execTimes_snoc (execTimes_stuck hregs henv m hcnt (by omega))
      (exec_oscWaitReady_times_out hregs henv m hcnt heq), rfl, ?_⟩
    rw [if_pos heq]

/-- Settles O6: without a limit no poll times out, and the run fetches the same word for ever. -/
theorem oscWaitHangsWithoutLimit : Obligations.OscWaitHangsWithoutLimit := by
  unfold Obligations.OscWaitHangsWithoutLimit
  intro s src m n hp ha henv hbusy hfault hlimit hdecode
  have hrun : Host.Core.run core n s = .next (afterStuckPolls s src n) := by
    induction n with
    | zero => exact congrArg Host.Outcome.next (afterStuckPolls_zero s src).symm
    | succ n ih =>
      refine run_snoc ih ((step_of_agenda_nil (s := afterStuckPolls s src n) hp ha).trans ?_)
      refine (sequencerTurn_of_ok (s := afterStuckPolls s src n) hbusy hfault hdecode).trans ?_
      exact exec_oscWaitReady_counts (paramsWf_regs hp) henv m fun ⟨hne, _⟩ => hne hlimit
  exact ⟨_, hrun, rfl, fun _ => rfl, rfl, ⟨rfl, rfl, rfl, rfl⟩, rfl, rfl⟩

/-- Settles O23: by the shape each micro-operation has. -/
theorem faultsOfEachMicroOperation : Obligations.FaultsOfEachMicroOperation := by
  unfold Obligations.FaultsOfEachMicroOperation
  intro i s t hi hexec hclear hfault
  cases i <;> simp only [Instr.format, reduceCtorEq] at hi
  case oscEnable src m | oscDisable src m =>
    obtain rfl := Host.Outcome.next.inj hexec
    rw [rmw_fault, hclear] at hfault
    cases hfault
  case oscIsReady src m =>
    obtain rfl := Host.Outcome.next.inj hexec
    exact absurd hfault (ne_true_of_eq_false hclear)
  case oscWaitReady src m =>
    obtain rfl := Host.Outcome.next.inj hexec
    obtain ⟨⟨hcode, hsrc⟩, hlimit⟩ := poll_records hclear hfault
    exact ⟨hcode, hsrc, hlimit⟩
  case swSelect src m =>
    cases hsw : s.params.codes.sw.get src with
    | none =>
      rw [(unselectableSourceFaults s src m hsw).1] at hexec
      cases hexec
      exact ⟨rfl, rfl, hsw⟩
    | some c =>
      rw [exec_swSelect hsw] at hexec
      obtain rfl := Host.Outcome.next.inj hexec
      rw [rmw_fault, hclear] at hfault
      cases hfault
  case swWait src m =>
    cases hsw : s.params.codes.sw.get src with
    | none =>
      rw [(unselectableSourceFaults s src m hsw).2] at hexec
      cases hexec
      exact .inr ⟨rfl, rfl, hsw⟩
    | some c =>
      rw [exec_swWait hsw] at hexec
      obtain rfl := Host.Outcome.next.inj hexec
      obtain ⟨⟨hcode, hsrc⟩, hlimit⟩ := poll_records hclear hfault
      exact .inl ⟨hcode, hsrc, hlimit⟩
  case profLookup m =>
    cases hbad : badProfile s.params.codes (selectedProfile s) with
    | true =>
      rw [exec_profLookup_of_bad hbad] at hexec
      cases hexec
      exact ⟨rfl, rfl⟩
    | false =>
      rw [exec_profLookup_of_good hbad] at hexec
      cases hexec
      exact absurd hfault (ne_true_of_eq_false hclear)
  case vosSetScale m | preSetAhb m | preSetApb1 m | preSetApb2 m | flashSetWs ic dc m =>
    obtain rfl := Host.Outcome.next.inj hexec
    obtain ⟨⟨hcode, hsrc⟩, hnone⟩ := withProfile_records hclear (fun _ => rmw_fault ..) hfault
    exact ⟨hcode, hsrc, hnone⟩
  case freqPublish m =>
    obtain rfl := Host.Outcome.next.inj hexec
    obtain ⟨⟨hcode, hsrc⟩, hnone⟩ := withProfile_records hclear (fun _ => by rfl) hfault
    exact ⟨hcode, hsrc, hnone⟩
  case pllConfigure m =>
    cases hprof : s.cto.prof with
    | none =>
      rw [emptyProfileFaultsFirst s m true true hprof _ (by simp)] at hexec
      cases hexec
      exact .inl ⟨rfl, rfl, rfl⟩
    | some p =>
      cases hph : s.cto.ph with
      | false =>
        rw [exec_pllConfigure_first hprof hph] at hexec
        obtain rfl := Host.Outcome.next.inj hexec
        exact .inr (pllTest_records hclear hfault)
      | true =>
        rw [exec_pllConfigure_second hprof hph] at hexec
        obtain rfl := Host.Outcome.next.inj hexec
        exact absurd hfault (ne_true_of_eq_false hclear)
  case uEnd m =>
    obtain rfl := Host.Outcome.next.inj hexec
    exact absurd hfault (ne_true_of_eq_false hclear)

end Sys2Proof.Claims
end
